-- ==== Sys2Proof/Word.lean ====
section
/-! DEFINITION. The word types of CKFB: octets, command words and line levels (00_scope.md R11, R14; 30_encoding.md R90). -/

namespace Sys2Proof

/-- An octet, 0 to 255 (R14). -/
abbrev Octet := BitVec 8

/-- A command word `cmd[15:0]` (30_encoding.md R90). -/
abbrev CmdWord := BitVec 16

/-- A logic level, or any one-bit value: `false` is 0, `true` is 1 (R10). -/
abbrev Level := Bool

/-- A 6-octet serialised metadata record (20_memory.md R71). -/
abbrev MetaRecord := Vector Octet 6

/-- The four octets of a checksum, index 0 first (40_checksum.md R121). -/
abbrev Digest := Vector Octet 4

end Sys2Proof
end

