-- ==== Sys2Proof/Config.lean ====
section
/-! DEFINITION. What an implementation of CKFB fixes (00_scope.md R6) and the free values of the spec (93_implementation_defined.md U1). -/

namespace Sys2Proof

/-- The three octet buffers (20_memory.md R60). -/
inductive Buffer where
  | txbuf
  | stage
  | pub
  deriving DecidableEq, Repr

namespace Config

/-- The OPEN parameters of R6. A State carries them in its field `params`, which no step writes
(log 7), so that a statement about every state is a statement about every configuration. -/
structure Params where
  /-- `PMAX`, the largest preamble length the block holds (decision D8). -/
  pmax : Nat
  /-- `MAX_PAYLOAD`, the largest payload size in octets (decision D9). -/
  maxPayload : Nat
  /-- `T_DEFAULT`, the protocol-default duration of one unit. No rule reads it (R6, U8; log 13). -/
  tDefault : Nat
  deriving DecidableEq, Repr

/-- The ranges R6 gives: `PMAX` 1 to 255, `MAX_PAYLOAD` 1 to 65535, `T_DEFAULT` any. -/
abbrev Params.wf (p : Params) : Prop :=
  (1 ≤ p.pmax ∧ p.pmax ≤ 255) ∧ (1 ≤ p.maxPayload ∧ p.maxPayload ≤ 65535)

/-- The reference configuration of R6, the one every test vector of 95_test_vectors.md uses. -/
def referenceParams : Params := { pmax := 32, maxPayload := 256, tDefault := 0 }

/-- `META_BYTES` of R6. -/
def metaBytes : Nat := 6

/-- `CK_BYTES` of R6. -/
def ckBytes : Nat := 4

/-- FREE VALUE (log 5): the octet that a cell of a buffer holds from a `RESET` until a rule writes
the cell (10_state.md R20, 93 U1). It is fixed for each cell and drawn anew by each `RESET`: the
first argument is the number of `RESET` events so far, the last the index of the cell. -/
opaque unspecifiedOctet : Nat → Buffer → Nat → Octet

end Config

end Sys2Proof
end

