-- ==== Sys2Proof/Machine/State.lean ====
section
/-! DEFINITION. The state of CKFB (10_state.md R20), what the outside world presents to it, the ways a step can stop, and the state after reset (70_reset_and_hazards.md R300, R301). -/

namespace Sys2Proof.Machine

/-- `PHASE`, with exactly the values that R29 gives it (93 U15 permits the enumeration; log 9). -/
inductive Phase where
  | idle
  | rxSync
  | rxHeader
  | rxPayload
  | txPre
  | txMeta
  | txMck
  | txPay
  | txPck
  | txEnd
  deriving DecidableEq, Repr

/-- `REASON`: why the last read failed (10_state.md R39, 60_exceptions.md R260). -/
inductive Reason where
  | none
  | signalMismatch
  | cancelled
  | integrityFailure
  deriving DecidableEq, Repr

/-- `ECODE`: why the first refused command was refused (R41, R280 to R283). -/
inductive ErrorCode where
  | none
  | illegal
  | state
  | range
  deriving DecidableEq, Repr

/-- The arrays that the engine reaches with its own counters. -/
inductive IndexSpace where
  | pat
  | mbuf
  | txm
  | digestOctets
  | txbuf
  | stage
  | rxck
  deriving DecidableEq, Repr

/-- Why the machine stops. -/
inductive Fault where
  /-- Raised by `STEP` alone, when a counter of the sequencer position lies outside the array that
  its phase names. The spec gives such a position no meaning and no run from reset reaches one
  (10_state.md R29, 93 U17). Safe: the model stops where the spec says nothing (log 8). -/
  | outsideArray (space : IndexSpace) (index : Nat)
  deriving DecidableEq, Repr

/-- Why the model gives no meaning. -/
inductive Refusal where
  /-- Raised by an arm of `exec` whose instruction has no meaning yet. Safe. No arm raises it now. A
  command that CKFB itself refuses (60_exceptions.md R280) is a NEXT state, not this. -/
  | notModelled (mnemonic : String)
  deriving DecidableEq, Repr

/-- An octet buffer: the cells written since the last `RESET`, as pairs of index and octet with the
indexes strictly rising. A cell that is not listed has no written value; what it reads as is the
free value of `Config.unspecifiedOctet` (log 5, log 6). -/
abbrev Memory := List Host.Cell

/-- The canonical form: indexes strictly rising (log 6). -/
abbrev Memory.wf (m : Memory) : Prop := m.Pairwise fun c e => c.1 < e.1

/-- What the ports of CKFB show at one moment (00_scope.md R8, 30_encoding.md R90, 10_state.md R50;
log 1). -/
structure PortEvent where
  /-- Pin `rst`: a `RESET` is requested. -/
  rst : Bool
  /-- The command port: the word presented, if one is. -/
  cmd : Option CmdWord
  /-- Pin `line_in`. -/
  lineIn : Level
  deriving DecidableEq, Repr

/-- The state of CKFB: the items of R20, and below them the model's own fields. -/
structure State where
  /-- `ACC`, the checksum accumulator (R21). -/
  acc : BitVec 32
  /-- `PLEN`, the preamble length, 0 for not configured (R22). -/
  plen : BitVec 8
  /-- `PAT[0..PMAX-1]`, the preamble pattern (R23; log 17). -/
  pat : List Level
  /-- `TXM[0..5]`, the metadata record to transmit (R24). -/
  txm : MetaRecord
  /-- `PTR`, the buffer pointer of `TXWR` and `RXRD` (R25). -/
  ptr : BitVec 16
  /-- `TXBUF`, the payload to transmit (R26). -/
  txbuf : Memory
  /-- `STAGE`, the payload being received (R27). -/
  stage : Memory
  /-- `PUB`, the payload of the last successful read (R28). -/
  pub : Memory
  /-- `PUBLEN`, the number of valid octets of `PUB` (R28). -/
  publen : BitVec 16
  /-- `PHASE`, the sequencer phase (R29). -/
  phase : Phase
  /-- `IDX`, the match index or preamble element index (R30). -/
  idx : BitVec 8
  /-- `MBUF[0..PMAX-1]`, the match buffer (R31; log 17). -/
  mbuf : List Level
  /-- `SHREG`, the octet assembly shift register (R32). -/
  shreg : Octet
  /-- `BITCNT`, the bit position inside the current octet (R33). -/
  bitcnt : BitVec 3
  /-- `BCNT`, the octets already handled in the current phase (R34). -/
  bcnt : BitVec 17
  /-- `HDR[0..5]`, the metadata octets being received (R35). -/
  hdr : MetaRecord
  /-- `RXCK[0..3]`, the checksum octets received (R36). -/
  rxck : Digest
  /-- `RXM[0..5]`, the metadata record of the last header that verified (R37). -/
  rxm : MetaRecord
  /-- `DIR`, the line direction: true is output (R38). -/
  dir : Bool
  /-- `OK`, the last read succeeded (R39). -/
  ok : Bool
  /-- `FAIL`, the last read failed (R39). -/
  fail : Bool
  /-- `REASON`, why it failed (R39). -/
  reason : Reason
  /-- `CMDERR`, a command was refused since the last `ERRCLR` (R41). -/
  cmderr : Bool
  /-- `ECODE`, why the first such command was refused (R41). -/
  ecode : ErrorCode
  /-- `LINE_OUT`, the level driven on the line when `DIR = 1` (R42). -/
  lineOut : Level
  /-- MODEL'S OWN: the OPEN parameters of 00_scope.md R6, which no step writes (log 7). -/
  params : Config.Params
  /-- MODEL'S OWN: what the outside world presents, the next event first (log 1). -/
  inputs : List PortEvent
  /-- MODEL'S OWN: the level of pin `line_in` during the present event (log 4). -/
  lineIn : Level
  /-- MODEL'S OWN: the response to the last command word (30_encoding.md R90, R92; log 3). -/
  rsp : Octet
  /-- MODEL'S OWN: the number of `RESET` events so far, which draws the free octets of unwritten
  cells (93 U1; log 5). -/
  resets : Nat
  deriving DecidableEq, Repr

/-- The machine right after `RESET`: the column "reset" of R20, in words R301. The buffers list no
cell (R20 "unspecified"), and nothing is presented yet (log 1). -/
def State.reset : State where
  acc := 0
  plen := 0
  pat := List.replicate Config.referenceParams.pmax false
  txm := Vector.replicate 6 0
  ptr := 0
  txbuf := []
  stage := []
  pub := []
  publen := 0
  phase := .idle
  idx := 0
  mbuf := List.replicate Config.referenceParams.pmax false
  shreg := 0
  bitcnt := 0
  bcnt := 0
  hdr := Vector.replicate 6 0
  rxck := Vector.replicate 4 0
  rxm := Vector.replicate 6 0
  dir := false
  ok := false
  fail := false
  reason := .none
  cmderr := false
  ecode := .none
  lineOut := false
  params := Config.referenceParams
  inputs := []
  lineIn := false
  rsp := 0
  resets := 0

end Sys2Proof.Machine
end

