-- ==== Sys2Proof/Machine/Operands.lean ====
section
/-! DEFINITION. Operand forms: bit and octet order on the line, the metadata record, the checksum readout, the halves of 16-bit values, and the buffers' cells (20_memory.md, 40_checksum.md). -/

namespace Sys2Proof.Machine

/-! ## Bit order (20_memory.md R70) -/

/-- The bit of `o` that travels as unit `k` of its eight: `o[7 - k]`, most significant first (R70, R175). -/
def lineBit (o : Octet) (k : BitVec 3) : Level := o.getLsbD (7 - k.toNat)

/-- `bits(o)` of 42_frame_tx.md R172: the eight units of an octet in line order. -/
def octetBits (o : Octet) : List Level :=
  [o.getLsbD 7, o.getLsbD 6, o.getLsbD 5, o.getLsbD 4, o.getLsbD 3, o.getLsbD 2, o.getLsbD 1, o.getLsbD 0]

/-- The bits of a sequence of octets, in line order (R172). -/
def octetsBits (os : List Octet) : List Level := os.flatMap octetBits

/-- `{r[6:0], u}`: the sample enters at bit 0 and bit 7 is discarded (43_frame_rx.md R204). -/
def shiftIn (r : Octet) (u : Level) : Octet := r.extractLsb' 0 7 ++ BitVec.ofBool u

/-! ## Metadata record (20_memory.md R71) -/

/-- `size(m) = {m[1], m[0]}`. -/
def metaSize (m : MetaRecord) : BitVec 16 := m[1] ++ m[0]

/-- `id(m) = {m[3], m[2]}`, an opaque tag that no rule reads. -/
def metaId (m : MetaRecord) : BitVec 16 := m[3] ++ m[2]

/-- `timing(m) = {m[5], m[4]}`, which no rule reads. -/
def metaTiming (m : MetaRecord) : BitVec 16 := m[5] ++ m[4]

/-! ## Checksum (40_checksum.md R120, R121) -/

/-- `zext_32(o)` (00_scope.md R11). -/
def zext32 (o : Octet) : BitVec 32 := o.setWidth 32

/-- `cksum(B)`: the sum of the octets modulo `2^32` (R120). -/
def cksum (os : List Octet) : BitVec 32 := BitVec.ofNat 32 (os.map BitVec.toNat).sum

/-- `digest(a)`: the four octets of `a`, most significant first (R121). -/
def digest (a : BitVec 32) : Digest :=
  #v[a.extractLsb' 24 8, a.extractLsb' 16 8, a.extractLsb' 8 8, a.extractLsb' 0 8]

/-! ## Halves of 16-bit values (20_memory.md R74) -/

/-- `v[7:0]`. -/
def lowOctet (v : BitVec 16) : Octet := v.extractLsb' 0 8

/-- `v[15:8]`. -/
def highOctet (v : BitVec 16) : Octet := v.extractLsb' 8 8

/-- The pointer with one half replaced, `h` false for the low half (41_config_buffers.md R144). -/
def setHalf (v : BitVec 16) (h : Level) (d : Octet) : BitVec 16 :=
  if h then d ++ lowOctet v else highOctet v ++ d

/-! ## Buffer cells (20_memory.md R60) -/

/-- The octet written at index `a`, if one was. -/
def Memory.get? : Memory → Nat → Option Octet
  | [], _ => none
  | (b, v) :: m, a => if b = a then some v else Memory.get? m a

/-- Writes one cell and keeps the indexes rising. -/
def Memory.write : Memory → Nat → Octet → Memory
  | [], a, v => [(a, v)]
  | (b, w) :: m, a, v =>
    if a < b then (a, v) :: (b, w) :: m
    else if a = b then (a, v) :: m
    else (b, w) :: Memory.write m a v

/-- Cells `0` to `n - 1` take the octets of `src`; the cells from `n` on are kept (43_frame_rx.md R211). -/
def Memory.adopt (m : Memory) (n : Nat) (src : Nat → Octet) : Memory :=
  (List.range n).map (fun i => (i, src i)) ++ m.filter fun c => decide (n ≤ c.1)

/-- The storage of a buffer. The three never alias (20_memory.md R62). -/
def State.buffer (s : State) : Buffer → Memory
  | .txbuf => s.txbuf
  | .stage => s.stage
  | .pub => s.pub

/-- `TXBUF[i]`, `STAGE[i]` or `PUB[i]`: the octet written there since the last `RESET`, or the free
octet of the unwritten cell (93 U1; log 5). -/
def State.cell (s : State) (b : Buffer) (i : Nat) : Octet :=
  ((s.buffer b).get? i).getD (Config.unspecifiedOctet s.resets b i)

/-- `B[0..n-1]` of a buffer, in index order. -/
def State.cells (s : State) (b : Buffer) (n : Nat) : List Octet :=
  (List.range n).map (s.cell b)

end Sys2Proof.Machine
end

