-- ==== Sys2Proof/Machine/Flags.lean ====
section
/-! DEFINITION. The views of the state: the busy functions, the timing selector, the nine status registers and the output pins (10_state.md R40, R43 to R46, R50). -/

namespace Sys2Proof.Machine

/-- The value of `PHASE` (R29). -/
def Phase.code : Phase → BitVec 4
  | .idle => 0
  | .rxSync => 1
  | .rxHeader => 2
  | .rxPayload => 3
  | .txPre => 4
  | .txMeta => 5
  | .txMck => 6
  | .txPay => 7
  | .txPck => 8
  | .txEnd => 9

/-- The value of `REASON` (R39, R260). -/
def Reason.code : Reason → BitVec 2
  | .none => 0
  | .signalMismatch => 1
  | .cancelled => 2
  | .integrityFailure => 3

/-- The value of `ECODE` (R41). -/
def ErrorCode.code : ErrorCode → BitVec 3
  | .none => 0
  | .illegal => 1
  | .state => 2
  | .range => 3

/-- `RXBUSY = (PHASE == 1 or PHASE == 2 or PHASE == 3)` (R40). -/
def State.rxBusy (s : State) : Bool :=
  s.phase == .rxSync || s.phase == .rxHeader || s.phase == .rxPayload

/-- `TXBUSY = (4 <= PHASE <= 9)` (R40). -/
def State.txBusy (s : State) : Bool :=
  decide (4 ≤ s.phase.code.toNat ∧ s.phase.code.toNat ≤ 9)

/-- `BUSY = (PHASE != 0)` (R40). -/
def State.busy (s : State) : Bool := s.phase != .idle

/-- The timing selector (R43): 1 when the next unit uses the per-pocket timing. -/
def State.tsel (s : State) : Bool :=
  (s.phase == .rxPayload && decide (s.bcnt.toNat < (metaSize s.rxm).toNat)) || s.phase == .txPay

/-- `STAT` (R45): bit 7 to bit 0. -/
def State.stat (s : State) : Octet :=
  0#1 ++ BitVec.ofBool s.cmderr ++ BitVec.ofBool s.tsel ++ BitVec.ofBool s.dir ++ BitVec.ofBool s.fail ++
    BitVec.ofBool s.ok ++ BitVec.ofBool s.txBusy ++ BitVec.ofBool s.rxBusy

/-- `CAUSE` (R46): `{0, ECODE[2:0], 0, 0, REASON[1:0]}`. -/
def State.cause (s : State) : Octet := 0#1 ++ s.ecode.code ++ 0#2 ++ s.reason.code

/-- Status register `r` (R44); the selectors 9 to 15 are no registers. -/
def State.statusRegister (s : State) (r : Nat) : Option Octet :=
  match r with
  | 0 => some s.stat
  | 1 => some s.cause
  | 2 => some (0#4 ++ s.phase.code)
  | 3 => some s.plen
  | 4 => some (lowOctet s.publen)
  | 5 => some (highOctet s.publen)
  | 6 => some (lowOctet s.ptr)
  | 7 => some (highOctet s.ptr)
  | 8 => some s.idx
  | _ => none

/-- The output pins (R50). -/
structure Pins where
  lineOut : Level
  lineOe : Bool
  ok : Bool
  fail : Bool
  busy : Bool
  tsel : Bool
  deriving DecidableEq, Repr

/-- Each output pin is a function of the state (R50, R270). -/
def State.pins (s : State) : Pins where
  lineOut := s.lineOut
  lineOe := s.dir
  ok := s.ok
  fail := s.fail
  busy := s.busy
  tsel := s.tsel

end Sys2Proof.Machine
end

