-- ==== Sys2Proof/Machine/Ops.lean ====
section
/-! DEFINITION. The operations that the meanings share: the response, the refusal of a command and the failure of a read (the two exceptional events of 60_exceptions.md), the accumulator, and the RESET event. -/

namespace Sys2Proof.Machine

/-- `rsp <- v` (30_encoding.md R92). -/
def State.respond (s : State) (v : Octet) : State := { s with rsp := v }

/-! ## Exceptional events (60_exceptions.md) -/

/-- `refuse(code)` (R280): the command is not executed; the first cause is kept. -/
def State.refuse (s : State) (code : ErrorCode) : State :=
  { s with
    ecode := if s.cmderr then s.ecode else code
    cmderr := true
    rsp := 0 }

/-- The acknowledgement of a refusal, the return from it (R286, 44_system.md R241). -/
def State.acknowledge (s : State) : State := { s with cmderr := false, ecode := .none }

/-- `fail(r)` (R262): the read ends with failure. -/
def State.failRead (s : State) (r : Reason) : State :=
  { s with reason := r, fail := true, phase := .idle }

/-- The return from a read failure: `POLL` clears the outcome of the previous read (R286, 43 R200). -/
def State.clearOutcome (s : State) : State := { s with ok := false, fail := false, reason := .none }

/-- The state check of R282 for a command that is permitted only in `IDLE`. -/
def State.whenIdle (s : State) (executed : State) : State :=
  if s.phase = .idle then executed else s.refuse .state

/-- The range check of R283. -/
def State.whenInRange (s : State) (inRange : Bool) (executed : State) : State :=
  if inRange then executed else s.refuse .range

/-! ## The accumulator (40_checksum.md R122) -/

/-- `ACC <- (ACC + zext_32(o)) mod 2^32`. -/
def State.absorb (s : State) (o : Octet) : State := { s with acc := s.acc + zext32 o }

/-! ## The sequencer (10_state.md R29) -/

/-- The start of a send or a read: its phase, the counters and the accumulator at 0 (R170, R200). -/
def State.start (s : State) (p : Phase) : State :=
  { s with phase := p, idx := 0, bitcnt := 0, bcnt := 0, acc := 0 }

/-! ## RESET (70_reset_and_hazards.md R300) -/

/-- The `RESET` event: every item of R20 takes its reset value. The configuration of the machine
and what the outside world presents are not state of CKFB and stay; the free octets of the buffers
are drawn anew (log 5, log 11). -/
def State.takeReset (s : State) : State :=
  { State.reset with
    pat := List.replicate s.params.pmax false
    mbuf := List.replicate s.params.pmax false
    params := s.params
    inputs := s.inputs
    lineIn := s.lineIn
    resets := s.resets + 1 }

end Sys2Proof.Machine
end

