-- ==== Sys2Proof/Machine/Checksum.lean ====
section
/-! DEFINITION. The checksum commands (40_checksum.md R123 to R125). -/

namespace Sys2Proof.Machine

/-- `CKCLR` (R123). -/
def execCkclr (s : State) : Host.Outcome State Fault Refusal :=
  .next (s.whenIdle { s with acc := 0, rsp := 0 })

/-- `CKADD d` (R124). -/
def execCkadd (d : Octet) (s : State) : Host.Outcome State Fault Refusal :=
  .next (s.whenIdle ((s.absorb d).respond 0))

/-- `CKRD k` (R125): executed in every phase. -/
def execCkrd (k : Fin 4) (s : State) : Host.Outcome State Fault Refusal :=
  .next (s.respond (digest s.acc)[k])

end Sys2Proof.Machine
end

