-- ==== Sys2Proof/Machine/ConfigBuffers.lean ====
section
/-! DEFINITION. The configuration and buffer commands (41_config_buffers.md R140 to R146). -/

namespace Sys2Proof.Machine

/-- `PLEN n` (R140). -/
def execPlen (n : Nat) (s : State) : Host.Outcome State Fault Refusal :=
  .next (s.whenIdle (s.whenInRange (decide (1 ≤ n ∧ n ≤ s.params.pmax))
    { s with plen := BitVec.ofNat 8 n, rsp := 0 }))

/-- `PSET i, b` (R141). -/
def execPset (i : Nat) (b : Level) (s : State) : Host.Outcome State Fault Refusal :=
  .next (s.whenIdle (s.whenInRange (decide (i < s.params.pmax))
    { s with pat := s.pat.set i b, rsp := 0 }))

/-- `MSET j, d` (R142). -/
def execMset (j : Nat) (d : Octet) (s : State) : Host.Outcome State Fault Refusal :=
  .next (s.whenIdle (s.whenInRange (decide (j < Config.metaBytes))
    { s with txm := s.txm.setIfInBounds j d, rsp := 0 }))

/-- `MRD j` (R143): executed in every phase. -/
def execMrd (j : Nat) (s : State) : Host.Outcome State Fault Refusal :=
  match s.rxm[j]? with
  | some v => .next (s.respond v)
  | none => .next (s.refuse .range)

/-- `PTR h, d` (R144): executed in every phase. -/
def execPtr (h : Level) (d : Octet) (s : State) : Host.Outcome State Fault Refusal :=
  .next { s with ptr := setHalf s.ptr h d, rsp := 0 }

/-- `TXWR d` (R145). -/
def execTxwr (d : Octet) (s : State) : Host.Outcome State Fault Refusal :=
  .next (s.whenIdle (s.whenInRange (decide (s.ptr.toNat < s.params.maxPayload))
    { s with txbuf := Memory.write s.txbuf s.ptr.toNat d, ptr := s.ptr + 1, rsp := 0 }))

/-- `RXRD` (R146): executed in every phase. -/
def execRxrd (s : State) : Host.Outcome State Fault Refusal :=
  .next (s.whenInRange (decide (s.ptr < s.publen))
    { s with rsp := s.cell .pub s.ptr.toNat, ptr := s.ptr + 1 })

end Sys2Proof.Machine
end

