-- ==== Sys2Proof/Machine/FrameRx.lean ====
section
/-! DEFINITION. Reception: POLL and what STEP does in the receive phases (43_frame_rx.md). -/

namespace Sys2Proof.Machine

/-- `POLL` (R200). -/
def execPoll (s : State) : Host.Outcome State Fault Refusal :=
  .next (s.whenIdle (s.whenInRange (decide (s.plen ≠ 0))
    { s.clearOutcome.start .rxSync with dir := false, rsp := 0 }))

/-- Cancellation (R202): the reason is split by phase (90 C5). -/
def State.cancelRead (s : State) : State :=
  s.failRead (if s.phase = .rxSync then .signalMismatch else .cancelled)

/-- `MBUF[0..PLEN-1] == PAT[0..PLEN-1]` (R203). -/
def State.preambleMatches (s : State) : Bool :=
  s.mbuf.take s.plen.toNat == s.pat.take s.plen.toNat

/-- The end of a block of `PLEN` samples (R203): the comparison is made in the same `STEP`, and on
mismatch the index returns to 0, so that the detector is block-aligned (R213, 90 C2). -/
def State.blockComplete (s : State) : State :=
  if s.preambleMatches then s.start .rxHeader else { s with idx := 0 }

/-- `STEP` in `RX_SYNC` with sample `u` (R203). -/
def State.syncUnit (s : State) (u : Level) : Except Fault State :=
  if s.idx.toNat < s.mbuf.length then
    let t := { s with mbuf := s.mbuf.set s.idx.toNat u, idx := s.idx + 1 }
    .ok (if t.idx = t.plen then t.blockComplete else t)
  else .error (.outsideArray .mbuf s.idx.toNat)

/-- The header verified (R207): `RXM` is written before the size cap is tested. -/
def State.headerVerified (s : State) : State :=
  let t := { s with rxm := s.hdr }
  if t.params.maxPayload < (metaSize t.rxm).toNat then t.failRead .integrityFailure
  else { t with acc := 0, bcnt := 0, phase := .rxPayload }

/-- The header complete (R206): the checksum is tested before the size cap (60_exceptions.md R284). -/
def State.headerComplete (s : State) : State :=
  if s.rxck ≠ digest s.acc then s.failRead .integrityFailure else s.headerVerified

/-- `BCNT <- BCNT + 1; if BCNT == 10: do rule R206` (R205). -/
def State.headerCounted (s : State) : State :=
  let t := { s with bcnt := s.bcnt + 1 }
  if t.bcnt = 10 then t.headerComplete else t

/-- A complete octet `o` in `RX_HEADER` (R205). -/
def State.headerOctet (s : State) (o : Octet) : Except Fault State :=
  if s.bcnt.toNat < 6 then
    .ok { s.absorb o with hdr := s.hdr.setIfInBounds s.bcnt.toNat o }.headerCounted
  else if s.bcnt.toNat - 6 < 4 then
    .ok { s with rxck := s.rxck.setIfInBounds (s.bcnt.toNat - 6) o }.headerCounted
  else .error (.outsideArray .rxck (s.bcnt.toNat - 6))

/-- `size(RXM)`, the `n` of R208. -/
def State.rxSize (s : State) : Nat := (metaSize s.rxm).toNat

/-- Publication (R211): `PUB[0..n-1]`, `PUBLEN` and `OK` at once, and the read ends. -/
def State.publish (s : State) : State :=
  { s with
    pub := Memory.adopt s.pub s.rxSize (s.cell .stage)
    publen := metaSize s.rxm
    ok := true
    phase := .idle }

/-- The payload complete (R209): mismatch R210, match R211. -/
def State.payloadComplete (s : State) : State :=
  if s.rxck ≠ digest s.acc then s.failRead .integrityFailure else s.publish

/-- `BCNT <- BCNT + 1; if BCNT == n + 4: do rule R209` (R208). -/
def State.payloadCounted (s : State) : State :=
  let t := { s with bcnt := s.bcnt + 1 }
  if t.bcnt.toNat = t.rxSize + 4 then t.payloadComplete else t

/-- A complete octet `o` in `RX_PAYLOAD` (R208). -/
def State.payloadOctet (s : State) (o : Octet) : Except Fault State :=
  if s.bcnt.toNat < s.rxSize then
    if s.bcnt.toNat < s.params.maxPayload then
      .ok { s.absorb o with stage := Memory.write s.stage s.bcnt.toNat o }.payloadCounted
    else .error (.outsideArray .stage s.bcnt.toNat)
  else if s.bcnt.toNat - s.rxSize < 4 then
    .ok { s with rxck := s.rxck.setIfInBounds (s.bcnt.toNat - s.rxSize) o }.payloadCounted
  else .error (.outsideArray .rxck (s.bcnt.toNat - s.rxSize))

/-- `STEP` in `RX_HEADER` or `RX_PAYLOAD` with sample `u` (R204): eight samples make an octet, the
first in bit 7. -/
def State.octetUnit (s : State) (u : Level) : Except Fault State :=
  let t := { s with shreg := shiftIn s.shreg u }
  if s.bitcnt ≠ 7 then .ok { t with bitcnt := s.bitcnt + 1 }
  else
    let t := { t with bitcnt := 0 }
    if t.phase = .rxHeader then t.headerOctet t.shreg else t.payloadOctet t.shreg

/-- The receive step (R201): the predicate is looked at before the unit is sampled. -/
def stepRx (c : Level) (s : State) : Except Fault State :=
  if c then
    if s.phase = .rxSync then s.syncUnit s.lineIn else s.octetUnit s.lineIn
  else .ok s.cancelRead

end Sys2Proof.Machine
end

