-- ==== Sys2Proof/Machine/FrameTx.lean ====
section
/-! DEFINITION. Transmission: SEND and what STEP does in the transmit phases (42_frame_tx.md). -/

namespace Sys2Proof.Machine

/-- `size(TXM) <= MAX_PAYLOAD` and a preamble is configured (R170). -/
def State.canSend (s : State) : Bool :=
  decide (s.plen ≠ 0 ∧ (metaSize s.txm).toNat ≤ s.params.maxPayload)

/-- `SEND` (R170). -/
def execSend (s : State) : Host.Outcome State Fault Refusal :=
  .next (s.whenIdle (s.whenInRange s.canSend { s.start .txPre with dir := true, rsp := 0 }))

/-- Octet serialisation (R175): drives the next bit of `o`; after the eighth bit the octet is
counted and the segment's own test `segmentEnd` is made. -/
def State.driveBit (s : State) (o : Octet) (segmentEnd : State → State) : State :=
  if s.bitcnt ≠ 7 then { s with lineOut := lineBit o s.bitcnt, bitcnt := s.bitcnt + 1 }
  else segmentEnd { s with lineOut := lineBit o s.bitcnt, bitcnt := 0, bcnt := s.bcnt + 1 }

/-- An octet is absorbed when its first bit is driven (R176, R178). -/
def State.absorbAtFirstBit (s : State) (o : Octet) : State :=
  if s.bitcnt = 0 then s.absorb o else s

/-- The end of `TX_META` (R176). -/
def endTxMeta (s : State) : State :=
  if s.bcnt = 6 then { s with phase := .txMck, bcnt := 0 } else s

/-- The end of `TX_MCK` (R177): `TX_PAY` is skipped when `size(TXM) = 0`. -/
def endTxMck (s : State) : State :=
  if s.bcnt = 4 then
    { s with bcnt := 0, acc := 0, phase := if metaSize s.txm = 0 then .txPck else .txPay }
  else s

/-- The end of `TX_PAY` (R178). -/
def endTxPay (s : State) : State :=
  if s.bcnt.toNat = (metaSize s.txm).toNat then { s with phase := .txPck, bcnt := 0 } else s

/-- The end of `TX_PCK` (R179). -/
def endTxPck (s : State) : State :=
  if s.bcnt = 4 then { s with phase := .txEnd, bcnt := 0 } else s

/-- `STEP` in `TX_PRE` (R174). -/
def stepTxPre (s : State) : Except Fault State :=
  match s.pat[s.idx.toNat]? with
  | none => .error (.outsideArray .pat s.idx.toNat)
  | some u =>
    if s.idx + 1 = s.plen then
      .ok { s with lineOut := u, phase := .txMeta, idx := 0, bitcnt := 0, bcnt := 0 }
    else .ok { s with lineOut := u, idx := s.idx + 1 }

/-- `STEP` in `TX_META` (R176). -/
def stepTxMeta (s : State) : Except Fault State :=
  match s.txm[s.bcnt.toNat]? with
  | none => .error (.outsideArray .txm s.bcnt.toNat)
  | some o => .ok ((s.absorbAtFirstBit o).driveBit o endTxMeta)

/-- `STEP` in `TX_MCK` (R177). -/
def stepTxMck (s : State) : Except Fault State :=
  match (digest s.acc)[s.bcnt.toNat]? with
  | none => .error (.outsideArray .digestOctets s.bcnt.toNat)
  | some o => .ok (s.driveBit o endTxMck)

/-- `STEP` in `TX_PAY` (R178). A cell never written since `RESET` is sent and summed like any other. -/
def stepTxPay (s : State) : Except Fault State :=
  if s.bcnt.toNat < s.params.maxPayload then
    .ok ((s.absorbAtFirstBit (s.cell .txbuf s.bcnt.toNat)).driveBit (s.cell .txbuf s.bcnt.toNat) endTxPay)
  else .error (.outsideArray .txbuf s.bcnt.toNat)

/-- `STEP` in `TX_PCK` (R179). -/
def stepTxPck (s : State) : Except Fault State :=
  match (digest s.acc)[s.bcnt.toNat]? with
  | none => .error (.outsideArray .digestOctets s.bcnt.toNat)
  | some o => .ok (s.driveBit o endTxPck)

/-- `STEP` in `TX_END` (R180): the line is released and no unit is driven. -/
def stepTxEnd (s : State) : Except Fault State :=
  .ok { s with phase := .idle, dir := false }

end Sys2Proof.Machine
end

