-- ==== Sys2Proof/Machine/Engine.lean ====
section
/-! DEFINITION. The STEP command: its dispatch on PHASE (42_frame_tx.md R171, R173). -/

namespace Sys2Proof.Machine

/-- The end of an executed `STEP`: `rsp <- 0x00` (R171). -/
def finishStep (r : Except Fault State) : Host.Outcome State Fault Refusal :=
  match r with
  | .ok t => .next (t.respond 0)
  | .error f => .fault f

/-- `STEP c` (R171): refused in `IDLE`; in the transmit phases `c` is ignored (R173). -/
def execStep (c : Level) (s : State) : Host.Outcome State Fault Refusal :=
  match s.phase with
  | .idle => .next (s.refuse .state)
  | .rxSync => finishStep (stepRx c s)
  | .rxHeader => finishStep (stepRx c s)
  | .rxPayload => finishStep (stepRx c s)
  | .txPre => finishStep (stepTxPre s)
  | .txMeta => finishStep (stepTxMeta s)
  | .txMck => finishStep (stepTxMck s)
  | .txPay => finishStep (stepTxPay s)
  | .txPck => finishStep (stepTxPck s)
  | .txEnd => finishStep (stepTxEnd s)

end Sys2Proof.Machine
end

