-- ==== Sys2Proof/Machine/System.lean ====
section
/-! DEFINITION. The system commands (44_system.md R240 to R242). -/

namespace Sys2Proof.Machine

/-- `NOP` (R240). -/
def execNop (s : State) : Host.Outcome State Fault Refusal :=
  .next (s.respond 0)

/-- `ERRCLR` (R241): executed in every phase. -/
def execErrclr (s : State) : Host.Outcome State Fault Refusal :=
  .next (s.acknowledge.respond 0)

/-- `RDSR r` (R242): executed in every phase. -/
def execRdsr (r : Nat) (s : State) : Host.Outcome State Fault Refusal :=
  match s.statusRegister r with
  | some v => .next (s.respond v)
  | none => .next (s.refuse .range)

end Sys2Proof.Machine
end

