-- ==== Sys2Proof/Syntax.lean ====
section
/-! DEFINITION. The sixteen commands of CKFB, one constructor per row of the opcode map (30_encoding.md R94). -/

namespace Sys2Proof

/-- A command with its operands. Octets of data are bit vectors and flags are levels. The numbers
`n`, `i`, `j` and `r` are counts and indexes; what the encoding admits of them is checked in
WellFormed.lean (log 15). -/
inductive Instr where
  /-- `NOP` (44_system.md R240). -/
  | nop
  /-- `ERRCLR` (44_system.md R241). -/
  | errclr
  /-- `CKCLR` (40_checksum.md R123). -/
  | ckclr
  /-- `CKADD d` (40_checksum.md R124). -/
  | ckadd (d : Octet)
  /-- `CKRD k` (40_checksum.md R125). -/
  | ckrd (k : Fin 4)
  /-- `PLEN n` (41_config_buffers.md R140). -/
  | plen (n : Nat)
  /-- `PSET i, b` (41_config_buffers.md R141). -/
  | pset (i : Nat) (b : Level)
  /-- `MSET j, d` (41_config_buffers.md R142). -/
  | mset (j : Nat) (d : Octet)
  /-- `MRD j` (41_config_buffers.md R143). -/
  | mrd (j : Nat)
  /-- `PTR h, d`, `h` false for the low half (41_config_buffers.md R144). -/
  | ptr (h : Level) (d : Octet)
  /-- `TXWR d` (41_config_buffers.md R145). -/
  | txwr (d : Octet)
  /-- `RXRD` (41_config_buffers.md R146). -/
  | rxrd
  /-- `RDSR r` (44_system.md R242). -/
  | rdsr (r : Nat)
  /-- `POLL` (43_frame_rx.md R200). -/
  | poll
  /-- `SEND` (42_frame_tx.md R170). -/
  | send
  /-- `STEP c`, `c` the continue flag (42_frame_tx.md R171). -/
  | step (c : Level)
  deriving DecidableEq, Repr

end Sys2Proof
end

