-- ==== Sys2Proof/Machine/Dispatch.lean ====
section
/-! DEFINITION. One arm per command, each a direct call of its meaning. -/

namespace Sys2Proof.Machine

def exec (i : Instr) (s : State) : Host.Outcome State Fault Refusal :=
  match i with
  -- 44_system.md
  | .nop => Sys2Proof.Machine.execNop s
  | .errclr => Sys2Proof.Machine.execErrclr s
  | .rdsr r => Sys2Proof.Machine.execRdsr r s
  -- 40_checksum.md
  | .ckclr => Sys2Proof.Machine.execCkclr s
  | .ckadd d => Sys2Proof.Machine.execCkadd d s
  | .ckrd k => Sys2Proof.Machine.execCkrd k s
  -- 41_config_buffers.md
  | .plen n => Sys2Proof.Machine.execPlen n s
  | .pset j b => Sys2Proof.Machine.execPset j b s
  | .mset j d => Sys2Proof.Machine.execMset j d s
  | .mrd j => Sys2Proof.Machine.execMrd j s
  | .ptr h d => Sys2Proof.Machine.execPtr h d s
  | .txwr d => Sys2Proof.Machine.execTxwr d s
  | .rxrd => Sys2Proof.Machine.execRxrd s
  -- 43_frame_rx.md and 42_frame_tx.md
  | .poll => Sys2Proof.Machine.execPoll s
  | .send => Sys2Proof.Machine.execSend s
  | .step c => Sys2Proof.Machine.execStep c s

end Sys2Proof.Machine
end

