-- ==== Sys2Proof/WellFormed.lean ====
section
/-! DEFINITION. Which instructions have an encoding: the operand fits its field (30_encoding.md R93). An operand that is out of range for the configuration is still well formed: the word is legal and the command is refused (R98). -/

namespace Sys2Proof

/-- The operands fit the fields of the command's format. -/
def Instr.wellFormed : Instr → Bool
  | .nop => true
  | .errclr => true
  | .ckclr => true
  | .ckadd _ => true
  | .ckrd _ => true
  | .plen n => decide (n < 2 ^ 8)
  | .pset i _ => decide (i < 2 ^ 8)
  | .mset j _ => decide (j < 2 ^ 4)
  | .mrd j => decide (j < 2 ^ 4)
  | .ptr _ _ => true
  | .txwr _ => true
  | .rxrd => true
  | .rdsr r => decide (r < 2 ^ 4)
  | .poll => true
  | .send => true
  | .step _ => true

end Sys2Proof
end

