-- ==== Sys2Proof/Decode.lean ====
section
/-! DEFINITION. The decoder of 30_encoding.md, total on the 65536 command words (R95), the encoder beside it, and the opcode map as a table of masks and matches (R94). -/

namespace Sys2Proof

/-! ## Fields (R91) -/

/-- `op`, bits 15:12. -/
def fieldOp (w : CmdWord) : BitVec 4 := w.extractLsb' 12 4

/-- `a`, bits 11:8. -/
def fieldA (w : CmdWord) : BitVec 4 := w.extractLsb' 8 4

/-- `d`, bits 7:0. -/
def fieldD (w : CmdWord) : Octet := w.extractLsb' 0 8

/-- The word `{op, a, d}`. -/
def wordOf (op a : BitVec 4) (d : Octet) : CmdWord := op ++ a ++ d

/-! ## Decoding -/

/-- Why a word is no command (R96). Every one of these is refused by the machine with the cause
`ILLEGAL`. -/
inductive DecodeError where
  /-- `op = 15`, which no row of the opcode map has. -/
  | unassignedOp
  /-- `op = 0`, and the word is neither `NOP` nor `ERRCLR`. -/
  | unassignedSubop
  /-- A bit that the command's format fixes at 0 is 1. -/
  | reservedBitSet
  deriving DecidableEq, Repr

/-- Format `Z`: the whole word is fixed (here with `a = 0`, `d = 0`). -/
def formatZ (a : BitVec 4) (d : Octet) (i : Instr) : Except DecodeError Instr :=
  if a = 0 ∧ d = 0 then .ok i else .error .reservedBitSet

/-- Format `D`: `a` must be 0, the operand is `d`. -/
def formatD (a : BitVec 4) (d : Octet) (mk : Octet → Instr) : Except DecodeError Instr :=
  if a = 0 then .ok (mk d) else .error .reservedBitSet

/-- Format `K`: `a` and `d[7:2]` must be 0, the operand is `d[1:0]`. -/
def formatK (a : BitVec 4) (d : Octet) (mk : Fin 4 → Instr) : Except DecodeError Instr :=
  if a = 0 ∧ d.extractLsb' 2 6 = 0 then .ok (mk (d.extractLsb' 0 2).toFin) else .error .reservedBitSet

/-- Format `S`: `a[3:1]` must be 0, the operands are `a[0]` and `d`. -/
def formatS (a : BitVec 4) (d : Octet) (mk : Level → Octet → Instr) : Except DecodeError Instr :=
  if a.extractLsb' 1 3 = 0 then .ok (mk (a.getLsbD 0) d) else .error .reservedBitSet

/-- Format `JD`: the operands are `a` and `d`. -/
def formatJD (a : BitVec 4) (d : Octet) (mk : Nat → Octet → Instr) : Except DecodeError Instr :=
  .ok (mk a.toNat d)

/-- Format `J`: `d` must be 0, the operand is `a`. -/
def formatJ (a : BitVec 4) (d : Octet) (mk : Nat → Instr) : Except DecodeError Instr :=
  if d = 0 then .ok (mk a.toNat) else .error .reservedBitSet

/-- Format `C`: `a` and `d[7:1]` must be 0, the operand is `d[0]`. -/
def formatC (a : BitVec 4) (d : Octet) (mk : Level → Instr) : Except DecodeError Instr :=
  if a = 0 ∧ d.extractLsb' 1 7 = 0 then .ok (mk (d.getLsbD 0)) else .error .reservedBitSet

/-- The opcode map, by `op` (R94). -/
def decodeFields (op a : BitVec 4) (d : Octet) : Except DecodeError Instr :=
  match op.toNat with
  | 0 =>
    if a = 0 ∧ d = 0 then .ok .nop
    else if a = 1 ∧ d = 0 then .ok .errclr
    else .error .unassignedSubop
  | 1 => formatZ a d .ckclr
  | 2 => formatD a d .ckadd
  | 3 => formatK a d .ckrd
  | 4 => formatD a d fun n => .plen n.toNat
  | 5 => formatS a d fun b i => .pset i.toNat b
  | 6 => formatJD a d .mset
  | 7 => formatJ a d .mrd
  | 8 => formatS a d .ptr
  | 9 => formatD a d .txwr
  | 10 => formatZ a d .rxrd
  | 11 => formatJ a d .rdsr
  | 12 => formatZ a d .poll
  | 13 => formatZ a d .send
  | 14 => formatC a d .step
  | _ => .error .unassignedOp

/-- The command a word stands for, or why it is illegal. It reads no state (R95). -/
def decode (w : CmdWord) : Except DecodeError Instr :=
  decodeFields (fieldOp w) (fieldA w) (fieldD w)

/-! ## Encoding (R93, R94) -/

/-- The word of a well-formed instruction. -/
def encode : Instr → CmdWord
  | .nop => wordOf 0 0 0
  | .errclr => wordOf 0 1 0
  | .ckclr => wordOf 1 0 0
  | .ckadd d => wordOf 2 0 d
  | .ckrd k => wordOf 3 0 (0#6 ++ BitVec.ofFin (w := 2) k)
  | .plen n => wordOf 4 0 (BitVec.ofNat 8 n)
  | .pset i b => wordOf 5 (0#3 ++ BitVec.ofBool b) (BitVec.ofNat 8 i)
  | .mset j d => wordOf 6 (BitVec.ofNat 4 j) d
  | .mrd j => wordOf 7 (BitVec.ofNat 4 j) 0
  | .ptr h d => wordOf 8 (0#3 ++ BitVec.ofBool h) d
  | .txwr d => wordOf 9 0 d
  | .rxrd => wordOf 10 0 0
  | .rdsr r => wordOf 11 (BitVec.ofNat 4 r) 0
  | .poll => wordOf 12 0 0
  | .send => wordOf 13 0 0
  | .step c => wordOf 14 0 (0#7 ++ BitVec.ofBool c)

/-! ## The opcode map as a table (R94) -/

/-- A row of the opcode map: a word `w` is the row's command exactly when `(w & mask) == pattern`. -/
structure OpRow where
  mnemonic : String
  /-- The column "match" of R94. -/
  pattern : CmdWord
  mask : CmdWord
  deriving DecidableEq, Repr

/-- The sixteen rows of R94, in its order. -/
def opcodeTable : List OpRow :=
  [⟨"NOP", 0x0000, 0xFFFF⟩, ⟨"ERRCLR", 0x0100, 0xFFFF⟩, ⟨"CKCLR", 0x1000, 0xFFFF⟩,
   ⟨"CKADD", 0x2000, 0xFF00⟩, ⟨"CKRD", 0x3000, 0xFFFC⟩, ⟨"PLEN", 0x4000, 0xFF00⟩,
   ⟨"PSET", 0x5000, 0xFE00⟩, ⟨"MSET", 0x6000, 0xF000⟩, ⟨"MRD", 0x7000, 0xF0FF⟩,
   ⟨"PTR", 0x8000, 0xFE00⟩, ⟨"TXWR", 0x9000, 0xFF00⟩, ⟨"RXRD", 0xA000, 0xFFFF⟩,
   ⟨"RDSR", 0xB000, 0xF0FF⟩, ⟨"POLL", 0xC000, 0xFFFF⟩, ⟨"SEND", 0xD000, 0xFFFF⟩,
   ⟨"STEP", 0xE000, 0xFFFE⟩]

/-- The word is one of the row's. -/
def OpRow.covers (r : OpRow) (w : CmdWord) : Bool := w &&& r.mask == r.pattern

/-- The row of a command, as its place in `opcodeTable`. -/
def Instr.rowIndex : Instr → Nat
  | .nop => 0
  | .errclr => 1
  | .ckclr => 2
  | .ckadd _ => 3
  | .ckrd _ => 4
  | .plen _ => 5
  | .pset _ _ => 6
  | .mset _ _ => 7
  | .mrd _ => 8
  | .ptr _ _ => 9
  | .txwr _ => 10
  | .rxrd => 11
  | .rdsr _ => 12
  | .poll => 13
  | .send => 14
  | .step _ => 15

/-! ## What the host reads -/

/-- The instruction the decoder reads from a word numbered as spec/opcode_table.json numbers it.
CKFB has one instruction length, 16 bits (R91), so a longer word is none of its words. -/
def decodeTableWord (nbits w : Nat) : Option Instr :=
  if nbits ≤ 16 ∧ w < 2 ^ 16 then
    match decode (BitVec.ofNat 16 w) with
    | .ok i => some i
    | .error _ => none
  else none

end Sys2Proof
end

