-- ==== Sys2Proof/Machine/Port.lean ====
section
/-! DEFINITION. The command port and the pins as inputs: taking the next port event, and presenting a word (30_encoding.md R90, 10_state.md R50, 70_reset_and_hazards.md R300). -/

namespace Sys2Proof.Machine

/-- What the ports ask for during one event. -/
inductive Presented where
  /-- No word is presented: CKFB is idle and all state survives (60_exceptions.md R292). -/
  | quiet
  /-- `RESET` is requested on pin `rst`. -/
  | reset
  /-- A command word is presented. -/
  | word (w : CmdWord)
  deriving DecidableEq, Repr

/-- `RESET` wins over a command presented at the same time (R300). -/
def PortEvent.presented (e : PortEvent) : Presented :=
  if e.rst then .reset
  else
    match e.cmd with
    | some w => .word w
    | none => .quiet

/-- The next event taken from the inputs, with the level of `line_in` while it lasts (log 1, log 4).
When nothing more is presented the state stays (log 2). -/
def State.takeEvent (s : State) : Presented × State :=
  match s.inputs with
  | [] => (.quiet, s)
  | e :: rest => (e.presented, { s with inputs := rest, lineIn := e.lineIn })

/-- The event in which the host presents the word `w` and the line keeps its level (log 12). -/
def State.eventOf (s : State) (w : CmdWord) : PortEvent where
  rst := false
  cmd := some w
  lineIn := s.lineIn

/-- The word presented next, before everything that `inputs` already holds (log 12). -/
def State.present (s : State) (w : CmdWord) : State := { s with inputs := s.eventOf w :: s.inputs }

end Sys2Proof.Machine
end

