-- ==== Sys2Proof/Machine/Step.lean ====
section
/-! DEFINITION. One step of CKFB: one port event (00_scope.md R8, R9). -/

namespace Sys2Proof.Machine

/-- One step: the next event is taken; a `RESET`, a command word or nothing follows. An illegal word
is refused with the cause `ILLEGAL` before any state is looked at (60_exceptions.md R281). -/
def step (s : State) : Host.Outcome State Fault Refusal :=
  match s.takeEvent with
  | (.quiet, t) => .next t
  | (.reset, t) => .next t.takeReset
  | (.word w, t) =>
    match decode w with
    | .ok i => exec i t
    | .error _ => .next (t.refuse .illegal)

/-- The state in which the host presents the word `w` next: CKFB fetches no program, and the word it
runs next is the word on its command port (30_encoding.md R90, 10_state.md R29; log 12). -/
def State.withFetchWord (s : State) (_nbits w : Nat) : State := s.present (BitVec.ofNat 16 w)

end Sys2Proof.Machine
end

