-- ==== Sys2Proof/Machine/Frame.lean ====
section
/-! DEFINITION. The frame as a bit sequence (20_memory.md R72, 42_frame_tx.md R172), and executed STEPs in a row: what a send drives and what a read samples. -/

namespace Sys2Proof.Machine

/-- `N(L, n) = L + 8 * (14 + n)`, the units of a frame (00_scope.md R7). -/
def frameUnits (preambleLength size : Nat) : Nat := preambleLength + 8 * (14 + size)

/-- `bits(digest(cksum(B))[0]) ++ ... ++ bits(digest(cksum(B))[3])` (R172). -/
def checksumBits (os : List Octet) : List Level := octetsBits (digest (cksum os)).toList

/-- `frame(P, M, D)` (R172). -/
def frame (preamble : List Level) (record : MetaRecord) (payload : List Octet) : List Level :=
  preamble ++ octetsBits record.toList ++ checksumBits record.toList ++ octetsBits payload ++
    checksumBits payload

/-- The preamble `PAT[0..PLEN-1]`. -/
def State.preamble (s : State) : List Level := s.pat.take s.plen.toNat

/-- The state an outcome leads to, if there is one. -/
def nextState (o : Host.Outcome State Fault Refusal) : Option State :=
  match o with
  | .next t => some t
  | .fault _ => none
  | .refused _ => none

/-- The commands executed one after another. -/
def runCommands : List Instr → State → Option State
  | [], s => some s
  | i :: is, s => (nextState (exec i s)).bind (runCommands is)

/-- `STEP c` for each `c` of the list: the levels on `LINE_OUT` after each, and the last state. -/
def driveUnits : List Level → State → Option (List Level × State)
  | [], s => some ([], s)
  | c :: cs, s =>
    (nextState (exec (.step c) s)).bind fun t =>
      (driveUnits cs t).map fun p => (t.lineOut :: p.1, p.2)

/-- `STEP 1` for each unit of the list, with that level on `line_in` (20_memory.md R83). -/
def sampleUnits : List Level → State → Option State
  | [], s => some s
  | u :: us, s => (nextState (exec (.step true) { s with lineIn := u })).bind (sampleUnits us)

end Sys2Proof.Machine
end

