-- ==== Sys2Proof/Machine/Loopback.lean ====
section
/-! DEFINITION. Two CKFB joined by a line, under the interleaving of 20_memory.md R84 (log 14). -/

namespace Sys2Proof.Machine

/-- One unit on the loopback: the sender's driving `STEP 1`, then the reader's sampling `STEP 1` with
`line_in` of the reader equal to `line_out` of the sender (R84). -/
def loopbackUnit (sender reader : State) : Option (State × State) :=
  (nextState (exec (.step true) sender)).bind fun a =>
    (nextState (exec (.step true) { reader with lineIn := a.pins.lineOut })).map fun b => (a, b)

/-- `k` units on the loopback. -/
def loopback : Nat → State → State → Option (State × State)
  | 0, a, b => some (a, b)
  | k + 1, a, b => (loopbackUnit a b).bind fun p => loopback k p.1 p.2

end Sys2Proof.Machine
end

