-- ==== Sys2Proof/Safety.lean ====
section
/-! DEFINITION. What counts as a safe state and a safe run of CKFB: the invariants that the spec states of its state between commands. -/

namespace Sys2Proof.Machine

/-- The cells of a buffer are in canonical form and below `MAX_PAYLOAD` (20_memory.md R60; log 6). -/
abbrev Memory.inBounds (m : Memory) (maxPayload : Nat) : Prop :=
  Memory.wf m ∧ ∀ c ∈ m, c.1 < maxPayload

/-- The position `(PHASE, IDX, BITCNT, BCNT)` is one that the rules can leave between commands
(10_state.md R29, R30, R33, R34): each counter below the bound of the segment it counts, the size
that bounds the payload within the buffer, and the payload octets received so far written. -/
def State.positionInBounds (s : State) : Prop :=
  match s.phase with
  | .idle => True
  | .rxSync => s.idx < s.plen ∧ s.bitcnt = 0 ∧ s.bcnt = 0
  | .rxHeader => s.bcnt.toNat < 10
  | .rxPayload =>
    s.rxSize ≤ s.params.maxPayload ∧ s.bcnt.toNat < s.rxSize + 4 ∧
      ∀ i, i < s.bcnt.toNat → i < s.rxSize → (Memory.get? s.stage i).isSome
  | .txPre =>
    s.idx < s.plen ∧ s.bitcnt = 0 ∧ s.bcnt = 0 ∧ (metaSize s.txm).toNat ≤ s.params.maxPayload
  | .txMeta => s.bcnt.toNat < 6 ∧ (metaSize s.txm).toNat ≤ s.params.maxPayload
  | .txMck => s.bcnt.toNat < 4 ∧ (metaSize s.txm).toNat ≤ s.params.maxPayload
  | .txPay =>
    s.bcnt.toNat < (metaSize s.txm).toNat ∧ (metaSize s.txm).toNat ≤ s.params.maxPayload
  | .txPck => s.bcnt.toNat < 4 ∧ (metaSize s.txm).toNat ≤ s.params.maxPayload
  | .txEnd => s.bitcnt = 0 ∧ s.bcnt = 0

/-- The invariant of CKFB. -/
structure State.Inv (s : State) : Prop where
  /-- The OPEN parameters lie in their ranges (00_scope.md R6). -/
  params : s.params.wf
  /-- `PLEN` is 0 or a legal length (10_state.md R22). -/
  plen : s.plen.toNat ≤ s.params.pmax
  /-- `PAT` has `PMAX` elements (R23). -/
  patLength : s.pat.length = s.params.pmax
  /-- `MBUF` has `PMAX` elements (R31). -/
  mbufLength : s.mbuf.length = s.params.pmax
  /-- No more octets are valid than `PUB` holds (R28). -/
  publen : s.publen.toNat ≤ s.params.maxPayload
  txbuf : Memory.inBounds s.txbuf s.params.maxPayload
  stage : Memory.inBounds s.stage s.params.maxPayload
  pub : Memory.inBounds s.pub s.params.maxPayload
  /-- No cell of `PUB` is readable before it has been written (R28). -/
  published : ∀ i, i < s.publen.toNat → (Memory.get? s.pub i).isSome
  /-- `DIR = 1` exactly when `PHASE` is 4 to 9 (R38). -/
  direction : s.dir = s.txBusy
  /-- `OK` and `FAIL` are never both 1 (R39). -/
  outcome : ¬(s.ok = true ∧ s.fail = true)
  /-- `REASON` is recorded with `FAIL` and cleared with it (R39, 60_exceptions.md R262). -/
  failReason : s.fail = true ↔ s.reason ≠ .none
  /-- `POLL` clears the outcome, and only the `STEP` that ends the read sets it (R39). -/
  undecided : s.rxBusy = true → s.ok = false ∧ s.fail = false
  /-- `RXM` describes `PUB` while `OK = 1` (R37). -/
  described : s.ok = true → s.publen = metaSize s.rxm
  /-- `ECODE` is recorded with `CMDERR` and cleared with it (R41). -/
  errorCode : s.cmderr = true ↔ s.ecode ≠ .none
  /-- No send or read runs without a preamble (R22). -/
  configured : s.busy = true → s.plen ≠ 0
  /-- R29. -/
  position : s.positionInBounds

/-- The octets that a transmit phase has absorbed: those complete and the one begun (42 R176, R178). -/
def State.absorbedOctets (s : State) : Nat := s.bcnt.toNat + if s.bitcnt = 0 then 0 else 1

/-- The accumulator is the running checksum of the segment in progress (42_frame_tx.md R176 to R179,
43_frame_rx.md R205, R206, R208, R209). -/
def State.sumIsRunning (s : State) : Prop :=
  match s.phase with
  | .idle => True
  | .rxSync => s.acc = 0
  | .rxHeader => s.acc = cksum (s.hdr.toList.take s.bcnt.toNat)
  | .rxPayload => s.acc = cksum (s.cells .stage (min s.bcnt.toNat s.rxSize))
  | .txPre => s.acc = 0
  | .txMeta => s.acc = cksum (s.txm.toList.take s.absorbedOctets)
  | .txMck => s.acc = cksum s.txm.toList
  | .txPay => s.acc = cksum (s.cells .txbuf s.absorbedOctets)
  | .txPck => s.acc = cksum (s.cells .txbuf (metaSize s.txm).toNat)
  | .txEnd => s.acc = cksum (s.cells .txbuf (metaSize s.txm).toNat)

/-- The machine goes on: no fault and no refusal of the model (93, part 1: "every command word has a
defined outcome in every state, and no state makes the block hang"). -/
def State.goesOn (s : State) : Prop := ∃ t, step s = .next t

end Sys2Proof.Machine
end

