-- ==== Sys2Proof/Certificates/Slice0/Obligations.lean ====
section
/-! DEFINITION. The statements about CKFB, from the numbered rules of spec/. A frame is written as an equation of records: `t = { s with ... }` names every field that may differ, and every other field of the state, all of memory among them, is equal. -/

open Sys2Proof Sys2Proof.Machine

/-! ## What the statements are written with -/

namespace Sys2Proof.Claims

/-- The outcome with every next state changed by `f`. -/
def onNext (f : State → State) (o : Host.Outcome State Fault Refusal) : Host.Outcome State Fault Refusal :=
  match o with
  | .next t => .next (f t)
  | .fault x => .fault x
  | .refused x => .refused x

/-- The illegal words as 30_encoding.md R96 lists them. -/
def listedAsIllegal (w : CmdWord) : Prop :=
  let op := w.toNat / 4096
  let a := w.toNat / 256 % 16
  let d := w.toNat % 256
  op = 15 ∨
  (op = 0 ∧ w ≠ 0x0000 ∧ w ≠ 0x0100) ∨
  ((op = 1 ∨ op = 10 ∨ op = 12 ∨ op = 13) ∧ w.toNat % 4096 ≠ 0) ∨
  ((op = 2 ∨ op = 4 ∨ op = 9) ∧ a ≠ 0) ∨
  (op = 3 ∧ (a ≠ 0 ∨ 3 < d)) ∨
  ((op = 5 ∨ op = 8) ∧ 1 < a) ∨
  ((op = 7 ∨ op = 11) ∧ d ≠ 0) ∨
  (op = 14 ∧ (a ≠ 0 ∨ 1 < d))

/-- The reset values of 10_state.md R20 and the outputs of 70_reset_and_hazards.md R301. The cells of
the buffers are unspecified (R20): that each reads as its free octet is the model's choice (log 5). -/
def atResetValues (t : State) : Prop :=
  (t.phase = .idle ∧ t.dir = false ∧ t.lineOut = false ∧ t.ok = false ∧ t.fail = false ∧
    t.reason = .none ∧ t.cmderr = false ∧ t.ecode = .none) ∧
  (t.acc = 0 ∧ t.plen = 0 ∧ t.pat = List.replicate t.params.pmax false ∧ t.txm = Vector.replicate 6 0 ∧
    t.rxm = Vector.replicate 6 0 ∧ t.ptr = 0 ∧ t.publen = 0) ∧
  (t.idx = 0 ∧ t.bitcnt = 0 ∧ t.bcnt = 0 ∧ t.shreg = 0 ∧ t.mbuf = List.replicate t.params.pmax false ∧
    t.hdr = Vector.replicate 6 0 ∧ t.rxck = Vector.replicate 4 0) ∧
  (∀ b i, t.cell b i = Config.unspecifiedOctet t.resets b i) ∧
  t.pins = { lineOut := false, lineOe := false, ok := false, fail := false, busy := false, tsel := false } ∧
  (∀ r, r ≤ 8 → exec (.rdsr r) t = .next { t with rsp := 0 })

/-- What status register `r` shows of the state (10_state.md R44 to R46), with the numbers of the
phases (R29), of the reasons (R39, R260) and of the refusal causes (R41) as their tables list them. -/
def registerShows (s : State) (v : Octet) (r : Nat) : Prop :=
  match r with
  | 0 =>
    (v.getLsbD 0 = true ↔ s.phase = .rxSync ∨ s.phase = .rxHeader ∨ s.phase = .rxPayload) ∧
    (v.getLsbD 1 = true ↔
      s.phase = .txPre ∨ s.phase = .txMeta ∨ s.phase = .txMck ∨ s.phase = .txPay ∨ s.phase = .txPck ∨
        s.phase = .txEnd) ∧
    v.getLsbD 2 = s.ok ∧ v.getLsbD 3 = s.fail ∧ v.getLsbD 4 = s.dir ∧
    (v.getLsbD 5 = true ↔
      (s.phase = .rxPayload ∧ s.bcnt.toNat < (metaSize s.rxm).toNat) ∨ s.phase = .txPay) ∧
    v.getLsbD 6 = s.cmderr ∧ v.getLsbD 7 = false
  | 1 =>
    (s.reason, v.toNat % 4) ∈
      [(Reason.none, 0), (.signalMismatch, 1), (.cancelled, 2), (.integrityFailure, 3)] ∧
    v.toNat / 4 % 4 = 0 ∧
    (s.ecode, v.toNat / 16) ∈ [(ErrorCode.none, 0), (.illegal, 1), (.state, 2), (.range, 3)]
  | 2 =>
    (s.phase, v.toNat) ∈
      [(Phase.idle, 0), (.rxSync, 1), (.rxHeader, 2), (.rxPayload, 3), (.txPre, 4), (.txMeta, 5),
       (.txMck, 6), (.txPay, 7), (.txPck, 8), (.txEnd, 9)]
  | 3 => v = s.plen
  | 4 => v.toNat = s.publen.toNat % 256
  | 5 => v.toNat = s.publen.toNat / 256
  | 6 => v.toNat = s.ptr.toNat % 256
  | 7 => v.toNat = s.ptr.toNat / 256
  | 8 => v = s.idx
  | _ => False

/-- What the output pins show of the state (10_state.md R50, with `BUSY` of R40 and `TSEL` of R43). -/
def pinsShow (s : State) : Prop :=
  s.pins.lineOut = s.lineOut ∧ s.pins.lineOe = s.dir ∧ s.pins.ok = s.ok ∧ s.pins.fail = s.fail ∧
  (s.pins.busy = true ↔ s.phase ≠ .idle) ∧
  (s.pins.tsel = true ↔
    (s.phase = .rxPayload ∧ s.bcnt.toNat < (metaSize s.rxm).toNat) ∨ s.phase = .txPay)

/-- Whether R282 permits the command only in `IDLE`. -/
def idleOnly : Instr → Bool
  | .ckclr => true
  | .ckadd _ => true
  | .plen _ => true
  | .pset _ _ => true
  | .mset _ _ => true
  | .txwr _ => true
  | .poll => true
  | .send => true
  | _ => false

/-- Whether R283 finds an operand, the pointer or a configuration value out of range. -/
def outOfRange (i : Instr) (s : State) : Prop :=
  match i with
  | .plen n => n = 0 ∨ s.params.pmax < n
  | .pset i _ => s.params.pmax ≤ i
  | .mset j _ => 6 ≤ j
  | .mrd j => 6 ≤ j
  | .rdsr r => 9 ≤ r
  | .txwr _ => s.params.maxPayload ≤ s.ptr.toNat
  | .rxrd => s.publen.toNat ≤ s.ptr.toNat
  | .poll => s.plen = 0
  | .send => s.plen = 0 ∨ s.params.maxPayload < (metaSize s.txm).toNat
  | _ => False

/-- Whether R282 does not permit the command in the current phase. -/
def wrongPhase (i : Instr) (s : State) : Prop :=
  (idleOnly i = true ∧ s.phase ≠ .idle) ∨ ((∃ c, i = .step c) ∧ s.phase = .idle)

/-- The phases that one `STEP` can lead to (42_frame_tx.md R182, 43_frame_rx.md R215). -/
def stepSuccessors : Phase → List Phase
  | .idle => [.idle]
  | .rxSync => [.rxSync, .rxHeader, .idle]
  | .rxHeader => [.rxHeader, .rxPayload, .idle]
  | .rxPayload => [.rxPayload, .idle]
  | .txPre => [.txPre, .txMeta]
  | .txMeta => [.txMeta, .txMck]
  | .txMck => [.txMck, .txPay, .txPck]
  | .txPay => [.txPay, .txPck]
  | .txPck => [.txPck, .txEnd]
  | .txEnd => [.idle]

/-- The `k`-th block of `n` units, counted from 0 (43_frame_rx.md R213). -/
def block (n : Nat) (us : List Level) (k : Nat) : List Level := (us.drop (k * n)).take n

/-- A read has failed its checks and has published nothing (43_frame_rx.md R206, R210). -/
def failedUnpublished (before after : State) : Prop :=
  after.phase = .idle ∧ after.fail = true ∧ after.reason = .integrityFailure ∧ after.ok = false ∧
  after.pub = before.pub ∧ after.publen = before.publen

end Sys2Proof.Claims

open Sys2Proof.Claims

/-! ## Encoding (30_encoding.md) -/

/-- Words of V-ENC-1 of 95_test_vectors.md, written out from the formats of R93. -/
def Obligations.SampleWordsDecodeAsListed : Prop :=
  decode 0x0000 = .ok .nop ∧ decode 0x0100 = .ok .errclr ∧ decode 0x1000 = .ok .ckclr ∧
  decode 0x20FF = .ok (.ckadd 0xFF) ∧ decode 0x3003 = .ok (.ckrd 3) ∧ decode 0x4021 = .ok (.plen 33) ∧
  decode 0x5120 = .ok (.pset 32 true) ∧ decode 0x65FF = .ok (.mset 5 0xFF) ∧ decode 0x7500 = .ok (.mrd 5) ∧
  decode 0x81FF = .ok (.ptr true 0xFF) ∧ decode 0x90AB = .ok (.txwr 0xAB) ∧ decode 0xA000 = .ok .rxrd ∧
  decode 0xB800 = .ok (.rdsr 8) ∧ decode 0xC000 = .ok .poll ∧ decode 0xD000 = .ok .send ∧
  decode 0xE001 = .ok (.step true) ∧ decode 0x0200 = .error .unassignedSubop ∧
  decode 0x3004 = .error .reservedBitSet ∧ decode 0x5200 = .error .reservedBitSet ∧
  decode 0xFFFF = .error .unassignedOp

/-- Decode of encode, for every well-formed command (R93, R94). -/
def Obligations.DecodeInvertsEncode : Prop :=
  ∀ i : Instr, i.wellFormed = true → decode (encode i) = .ok i

/-- Encode of decode: a legal word has one meaning, and that command's word is it (R93, R94). -/
def Obligations.EncodeInvertsDecode : Prop :=
  ∀ (w : CmdWord) (i : Instr), decode w = .ok i → i.wellFormed = true ∧ encode i = w

/-- The decoder follows the opcode map (R94, R95): a decoded word is covered by the row of its
command and by no other row, and a word is illegal exactly when no row covers it. -/
def Obligations.DecodedRowIsTheOnlyRowThatMatches : Prop :=
  ∀ w : CmdWord,
    (∀ i, decode w = .ok i →
      ∀ k, (∃ r, opcodeTable[k]? = some r ∧ r.covers w = true) ↔ k = i.rowIndex) ∧
    ((∃ e, decode w = .error e) ↔ ∀ r ∈ opcodeTable, r.covers w = false)

/-- R281, with the illegal words as R96 lists them: the refusal looks at no state but the error
record. The word is presented as log 12 says. -/
def Obligations.IllegalWordsAreRefusedInEveryState : Prop :=
  ∀ w : CmdWord,
    ((∃ e, decode w = .error e) ↔ listedAsIllegal w) ∧
    ∀ s : State, listedAsIllegal w →
      step (s.present w) = .next { s with
        ecode := if s.cmderr then s.ecode else .illegal
        cmderr := true
        rsp := 0 }

/-! ## The step (00_scope.md R8, R9; 30_encoding.md R90) -/

/-- A step runs the command presented, on the state with the event taken; a `RESET` requested in the
event is taken instead (R300); without a word, or with nothing more presented, the state survives
(R292). That events come from a list is the model's choice (log 1, log 2). -/
def Obligations.StepRunsThePresentedCommand : Prop :=
  (∀ (s : State) (e : PortEvent) (rest : List PortEvent), s.inputs = e :: rest → e.rst = false →
    (∀ w i, e.cmd = some w → decode w = .ok i →
      step s = exec i { s with inputs := rest, lineIn := e.lineIn }) ∧
    (e.cmd = none → step s = .next { s with inputs := rest, lineIn := e.lineIn })) ∧
  (∀ (s : State) (e : PortEvent) (rest : List PortEvent), s.inputs = e :: rest → e.rst = true →
    step s = .next (State.takeReset { s with inputs := rest, lineIn := e.lineIn })) ∧
  ∀ s : State, s.inputs = [] → step s = .next s

/-- The word that `withFetchWord` presents is the very next one that runs (the model's choice, log 12). -/
def Obligations.FetchWordRunsNext : Prop :=
  ∀ (s : State) (i : Instr), i.wellFormed = true →
    step (s.withFetchWord 16 (encode i).toNat) = exec i s

/-- From R300 and R301: the reset values of R20, after power-on and after a `RESET` event in any state,
which wins over a command presented at the same time (`e.cmd` is any). R20 leaves the cells of the
buffers unspecified; that each reads as its free octet of `Config.unspecifiedOctet` is the model's
choice (log 5). -/
def Obligations.ResetGivesTheResetValues : Prop :=
  atResetValues State.reset ∧
  ∀ (s : State) (e : PortEvent) (rest : List PortEvent), s.inputs = e :: rest → e.rst = true →
    ∃ t, step s = .next t ∧ atResetValues t

/-! ## System commands (44_system.md) -/

/-- R240. -/
def Obligations.NopChangesNoState : Prop :=
  encode .nop = 0x0000 ∧ ∀ s : State, exec .nop s = .next { s with rsp := 0 }

/-- R241. -/
def Obligations.ErrclrAcknowledgesARefusal : Prop :=
  encode .errclr = 0x0100 ∧
  ∀ s : State, ∃ t, exec .errclr s = .next t ∧ t.cmderr = false ∧ t.ecode = .none ∧ t.rsp = 0 ∧
    t.cause.extractLsb' 4 3 = 0 ∧
    t = { s with cmderr := t.cmderr, ecode := t.ecode, rsp := t.rsp }

/-- R242 with the registers of R44, R45 and R46; and from R50 and R270, the output pins in every
state, which show the same flags. -/
def Obligations.RdsrReadsTheStatusRegisters : Prop :=
  State.reset.stat = 0 ∧ State.reset.cause = 0 ∧
  ∀ (s : State) (r : Nat),
    (r < 16 → encode (.rdsr r) = 0xB000#16 ||| (BitVec.ofNat 16 r <<< 8)) ∧
    (r ≤ 8 → ∃ v, exec (.rdsr r) s = .next { s with rsp := v } ∧ registerShows s v r) ∧
    (9 ≤ r → exec (.rdsr r) s = .next (s.refuse .range)) ∧
    pinsShow s

/-! ## Checksum (40_checksum.md) -/

/-- R123. -/
def Obligations.CkclrClearsTheAccumulator : Prop :=
  encode .ckclr = 0x1000 ∧
  ∀ s : State,
    (s.phase = .idle → exec .ckclr s = .next { s with acc := 0, rsp := 0 }) ∧
    (s.phase ≠ .idle → exec .ckclr s = .next (s.refuse .state))

/-- R124. -/
def Obligations.CkaddAddsAnOctetModulo2To32 : Prop :=
  ∀ (s : State) (d : Octet),
    encode (.ckadd d) = 0x2000#16 ||| d.setWidth 16 ∧
    (s.phase = .idle → ∃ t, exec (.ckadd d) s = .next t ∧
      t.acc.toNat = (s.acc.toNat + d.toNat) % 2 ^ 32 ∧ t.rsp = 0 ∧
      t = { s with acc := t.acc, rsp := t.rsp }) ∧
    (s.phase ≠ .idle → exec (.ckadd d) s = .next (s.refuse .state))

/-- R125. -/
def Obligations.CkrdReadsOneDigestOctet : Prop :=
  ∀ (s : State) (k : Fin 4),
    encode (.ckrd k) = 0x3000#16 + BitVec.ofNat 16 k.val ∧
    ∃ t, exec (.ckrd k) s = .next t ∧
      t.rsp.toNat = s.acc.toNat / 2 ^ (24 - 8 * k.val) % 256 ∧
      t = { s with rsp := t.rsp }

/-- R120 and R121: the checksum is the sum modulo `2^32`, its digest the four octets, most
significant first. -/
def Obligations.DigestIsTheBigEndianSum : Prop :=
  (∀ os : List Octet, (cksum os).toNat = (os.map BitVec.toNat).sum % 2 ^ 32) ∧
  ∀ (a : BitVec 32) (k : Fin 4), (digest a)[k].toNat = a.toNat / 2 ^ (24 - 8 * k.val) % 256

/-- R127: `CKCLR`, one `CKADD` for each octet, then `CKRD 0` to `CKRD 3`, from `IDLE`: after `CKRD k`
the response is octet `k` of the digest, and nothing else but the accumulator has changed. -/
def Obligations.ChecksumSequenceReturnsTheDigest : Prop :=
  ∀ (s : State) (os : List Octet) (k : Fin 4), s.phase = .idle →
    ∃ t, runCommands (.ckclr :: os.map .ckadd ++ ((List.finRange 4).take (k.val + 1)).map .ckrd) s = some t ∧
      t.rsp = (digest (cksum os))[k] ∧
      t = { s with acc := cksum os, rsp := t.rsp }

/-- R126 (a) to (d): what the checksum detects and does not detect. -/
def Obligations.ChecksumDetectsOneOctetButNotReordering : Prop :=
  (∀ os ps : List Octet, os.Perm ps → cksum os = cksum ps) ∧
  (∀ (xs ys : List Octet) (a b : Octet), a ≠ b → cksum (xs ++ a :: ys) ≠ cksum (xs ++ b :: ys)) ∧
  (∀ (xs ys zs : List Octet) (a b c d : Octet), a.toNat + b.toNat = c.toNat + d.toNat →
    cksum (xs ++ a :: ys ++ b :: zs) = cksum (xs ++ c :: ys ++ d :: zs)) ∧
  (∀ xs ys : List Octet, cksum (xs ++ 0 :: ys) = cksum (xs ++ ys))

/-! ## Configuration and buffers (41_config_buffers.md) -/

/-- R140. -/
def Obligations.PlenSetsThePreambleLength : Prop :=
  ∀ (s : State) (n : Nat), n < 256 →
    encode (.plen n) = 0x4000#16 ||| BitVec.ofNat 16 n ∧
    (s.phase ≠ .idle → exec (.plen n) s = .next (s.refuse .state)) ∧
    (s.phase = .idle → n = 0 ∨ s.params.pmax < n → exec (.plen n) s = .next (s.refuse .range)) ∧
    (s.phase = .idle → 1 ≤ n → n ≤ s.params.pmax → ∃ t, exec (.plen n) s = .next t ∧
      t.plen.toNat = n ∧ t.rsp = 0 ∧ t = { s with plen := t.plen, rsp := t.rsp })

/-- R141; `PAT` has `PMAX` elements, which the invariant says. -/
def Obligations.PsetSetsOnePreambleElement : Prop :=
  ∀ (s : State) (i : Nat) (b : Level), i < 256 → s.pat.length = s.params.pmax →
    encode (.pset i b) = 0x5000#16 ||| (BitVec.ofNat 16 b.toNat <<< 8) ||| BitVec.ofNat 16 i ∧
    (s.phase ≠ .idle → exec (.pset i b) s = .next (s.refuse .state)) ∧
    (s.phase = .idle → s.params.pmax ≤ i → exec (.pset i b) s = .next (s.refuse .range)) ∧
    (s.phase = .idle → i < s.params.pmax → ∃ t, exec (.pset i b) s = .next t ∧
      t.pat[i]? = some b ∧ (∀ j, j ≠ i → t.pat[j]? = s.pat[j]?) ∧ t.rsp = 0 ∧
      t = { s with pat := t.pat, rsp := t.rsp })

/-- R142, with the layout of the record that it repeats from 20_memory.md R71: octets 0 and 1 the size,
2 and 3 the identifier, 4 and 5 the timing value, the low octet first. -/
def Obligations.MsetSetsOneMetadataOctet : Prop :=
  (∀ m : MetaRecord, (metaSize m).toNat = 256 * m[1].toNat + m[0].toNat ∧
    (metaId m).toNat = 256 * m[3].toNat + m[2].toNat ∧
    (metaTiming m).toNat = 256 * m[5].toNat + m[4].toNat) ∧
  ∀ (s : State) (j : Nat) (d : Octet), j < 16 →
    encode (.mset j d) = 0x6000#16 ||| (BitVec.ofNat 16 j <<< 8) ||| d.setWidth 16 ∧
    (s.phase ≠ .idle → exec (.mset j d) s = .next (s.refuse .state)) ∧
    (s.phase = .idle → 6 ≤ j → exec (.mset j d) s = .next (s.refuse .range)) ∧
    (s.phase = .idle → j < 6 → ∃ t, exec (.mset j d) s = .next t ∧
      t.txm[j]? = some d ∧ (∀ k, k ≠ j → t.txm[k]? = s.txm[k]?) ∧ t.rsp = 0 ∧
      t = { s with txm := t.txm, rsp := t.rsp })

/-- R143: executed in every phase. -/
def Obligations.MrdReadsOneMetadataOctet : Prop :=
  ∀ (s : State) (j : Nat), j < 16 →
    encode (.mrd j) = 0x7000#16 ||| (BitVec.ofNat 16 j <<< 8) ∧
    (6 ≤ j → exec (.mrd j) s = .next (s.refuse .range)) ∧
    (j < 6 → ∃ v, s.rxm[j]? = some v ∧ exec (.mrd j) s = .next { s with rsp := v })

/-- R144: executed in every phase. -/
def Obligations.PtrSetsOneHalfOfThePointer : Prop :=
  ∀ (s : State) (h : Level) (d : Octet),
    encode (.ptr h d) = 0x8000#16 ||| (BitVec.ofNat 16 h.toNat <<< 8) ||| d.setWidth 16 ∧
    ∃ t, exec (.ptr h d) s = .next t ∧
      t.ptr.toNat = (if h then 256 * d.toNat + s.ptr.toNat % 256 else 256 * (s.ptr.toNat / 256) + d.toNat) ∧
      t.rsp = 0 ∧ t = { s with ptr := t.ptr, rsp := t.rsp }

/-- R145: the cell stored to is `TXBUF[PTR]`, and every other cell of every buffer reads as before. -/
def Obligations.TxwrStoresAtThePointer : Prop :=
  ∀ (s : State) (d : Octet),
    encode (.txwr d) = 0x9000#16 ||| d.setWidth 16 ∧
    (s.phase ≠ .idle → exec (.txwr d) s = .next (s.refuse .state)) ∧
    (s.phase = .idle → s.params.maxPayload ≤ s.ptr.toNat → exec (.txwr d) s = .next (s.refuse .range)) ∧
    (s.phase = .idle → s.ptr.toNat < s.params.maxPayload → ∃ t, exec (.txwr d) s = .next t ∧
      t.cell .txbuf s.ptr.toNat = d ∧
      (∀ b i, ¬(b = .txbuf ∧ i = s.ptr.toNat) → t.cell b i = s.cell b i) ∧
      t.ptr.toNat = (s.ptr.toNat + 1) % 2 ^ 16 ∧ t.rsp = 0 ∧
      t = { s with txbuf := t.txbuf, ptr := t.ptr, rsp := t.rsp })

/-- R146: executed in every phase; stores nothing. -/
def Obligations.RxrdLoadsAtThePointer : Prop :=
  encode .rxrd = 0xA000 ∧
  ∀ s : State,
    (s.publen.toNat ≤ s.ptr.toNat → exec .rxrd s = .next (s.refuse .range)) ∧
    (s.ptr.toNat < s.publen.toNat → ∃ t, exec .rxrd s = .next t ∧
      t.rsp = s.cell .pub s.ptr.toNat ∧ t.ptr.toNat = (s.ptr.toNat + 1) % 2 ^ 16 ∧
      t = { s with ptr := t.ptr, rsp := t.rsp })

/-! ## Refusals (60_exceptions.md) -/

/-- R280: what a refusal leaves. -/
def Obligations.RefusalKeepsTheFirstCause : Prop :=
  ∀ (s : State) (c : ErrorCode),
    (s.cmderr = false → s.refuse c = { s with ecode := c, cmderr := true, rsp := 0 }) ∧
    (s.cmderr = true → s.refuse c = { s with rsp := 0 })

/-- R282 and R283: a command is refused with `STATE`, else with `RANGE`, exactly in the listed
cases; a command that is not refused leaves the error record alone, `ERRCLR` apart. -/
def Obligations.CommandsAreRefusedExactlyAsListed : Prop :=
  ∀ (i : Instr) (s : State),
    (wrongPhase i s → exec i s = .next (s.refuse .state)) ∧
    (¬wrongPhase i s → outOfRange i s → exec i s = .next (s.refuse .range)) ∧
    (¬wrongPhase i s → ¬outOfRange i s → i ≠ .errclr →
      ∀ t, exec i s = .next t → t.cmderr = s.cmderr ∧ t.ecode = s.ecode)

/-- R41 and R286: with a refusal recorded, every step keeps the record but the one that takes a
`RESET` or the word of `ERRCLR`. -/
def Obligations.RecordedRefusalStaysUntilErrclrOrReset : Prop :=
  ∀ s t : State, step s = .next t → s.cmderr = true →
    (t.cmderr = true ∧ t.ecode = s.ecode) ∨
    ∃ e rest, s.inputs = e :: rest ∧ (e.rst = true ∨ e.cmd = some 0x0100)

/-! ## Transmission (42_frame_tx.md) -/

/-- R170. -/
def Obligations.SendStartsATransmission : Prop :=
  encode .send = 0xD000 ∧
  ∀ s : State,
    (s.phase ≠ .idle → exec .send s = .next (s.refuse .state)) ∧
    (s.phase = .idle → s.plen = 0 ∨ s.params.maxPayload < (metaSize s.txm).toNat →
      exec .send s = .next (s.refuse .range)) ∧
    (s.phase = .idle → s.plen ≠ 0 → (metaSize s.txm).toNat ≤ s.params.maxPayload →
      exec .send s = .next { s with
        dir := true, phase := .txPre, idx := 0, bitcnt := 0, bcnt := 0, acc := 0, rsp := 0 })

/-- From R171 and R42: no other command than `STEP` writes `LINE_OUT`; while a send or a read is in
progress no other command touches the engine at all (a command issued between two `STEP`s leaves
everything but `PTR`, the error record and the response); and a `STEP` that drives no unit leaves
`LINE_OUT` alone. -/
def Obligations.OnlyStepMovesTheEngine : Prop :=
  (∀ (i : Instr) (s t : State), (∀ c, i ≠ .step c) → exec i s = .next t →
    t.lineOut = s.lineOut ∧
    (s.phase ≠ .idle → t = { s with ptr := t.ptr, cmderr := t.cmderr, ecode := t.ecode, rsp := t.rsp })) ∧
  ∀ (c : Level) (s t : State), s.rxBusy = true ∨ s.phase = .txEnd ∨ s.phase = .idle →
    exec (.step c) s = .next t → t.lineOut = s.lineOut

/-- From R173: a send cannot be cancelled; every `STEP` of it does the same whatever `c` and whatever
the level on `line_in`. -/
def Obligations.ContinueFlagIsIgnoredInASend : Prop :=
  ∀ (s : State) (c d u : Level), s.txBusy = true →
    exec (.step c) { s with lineIn := u } =
      onNext (fun t => { t with lineIn := u }) (exec (.step d) s)

/-- R174. -/
def Obligations.TxPreDrivesThePreamble : Prop :=
  ∀ (s : State) (c u : Level), s.phase = .txPre → s.pat[s.idx.toNat]? = some u →
    s.tsel = false ∧
    ∃ t, exec (.step c) s = .next t ∧ t.lineOut = u ∧ t.rsp = 0 ∧
      (s.idx + 1 = s.plen → t = { s with
        lineOut := t.lineOut, rsp := t.rsp, phase := .txMeta, idx := 0, bitcnt := 0, bcnt := 0 }) ∧
      (s.idx + 1 ≠ s.plen → t = { s with lineOut := t.lineOut, rsp := t.rsp, idx := s.idx + 1 })

/-- R175 and R176. -/
def Obligations.TxMetaDrivesTheMetadata : Prop :=
  ∀ (s : State) (c : Level) (o : Octet), s.phase = .txMeta → s.txm[s.bcnt.toNat]? = some o →
    s.tsel = false ∧
    ∃ t, exec (.step c) s = .next t ∧
      t.lineOut = o.getLsbD (7 - s.bitcnt.toNat) ∧
      t.acc = (if s.bitcnt = 0 then s.acc + o.setWidth 32 else s.acc) ∧ t.rsp = 0 ∧
      (s.bitcnt ≠ 7 → t.bitcnt = s.bitcnt + 1 ∧ t.bcnt = s.bcnt ∧ t.phase = .txMeta) ∧
      (s.bitcnt = 7 → s.bcnt.toNat + 1 ≠ 6 → t.bitcnt = 0 ∧ t.bcnt = s.bcnt + 1 ∧ t.phase = .txMeta) ∧
      (s.bitcnt = 7 → s.bcnt.toNat + 1 = 6 → t.bitcnt = 0 ∧ t.bcnt = 0 ∧ t.phase = .txMck ∧
        (s.sumIsRunning → t.acc = cksum s.txm.toList)) ∧
      t = { s with
        lineOut := t.lineOut, acc := t.acc, bitcnt := t.bitcnt, bcnt := t.bcnt, phase := t.phase, rsp := t.rsp }

/-- R177. -/
def Obligations.TxMckDrivesTheMetadataChecksum : Prop :=
  ∀ (s : State) (c : Level) (o : Octet), s.phase = .txMck → (digest s.acc)[s.bcnt.toNat]? = some o →
    s.tsel = false ∧
    ∃ t, exec (.step c) s = .next t ∧
      t.lineOut = o.getLsbD (7 - s.bitcnt.toNat) ∧ t.rsp = 0 ∧
      (s.bitcnt ≠ 7 → t.bitcnt = s.bitcnt + 1 ∧ t.bcnt = s.bcnt ∧ t.phase = .txMck ∧ t.acc = s.acc) ∧
      (s.bitcnt = 7 → s.bcnt.toNat + 1 ≠ 4 →
        t.bitcnt = 0 ∧ t.bcnt = s.bcnt + 1 ∧ t.phase = .txMck ∧ t.acc = s.acc) ∧
      (s.bitcnt = 7 → s.bcnt.toNat + 1 = 4 →
        t.bitcnt = 0 ∧ t.bcnt = 0 ∧ t.acc = 0 ∧
        (metaSize s.txm = 0 → t.phase = .txPck) ∧ (metaSize s.txm ≠ 0 → t.phase = .txPay)) ∧
      t = { s with
        lineOut := t.lineOut, acc := t.acc, bitcnt := t.bitcnt, bcnt := t.bcnt, phase := t.phase, rsp := t.rsp }

/-- R178; the octet is that of the cell, a free octet where the host wrote none (93 U1, log 5). -/
def Obligations.TxPayDrivesThePayload : Prop :=
  ∀ (s : State) (c : Level), s.phase = .txPay → s.bcnt.toNat < (metaSize s.txm).toNat →
    (metaSize s.txm).toNat ≤ s.params.maxPayload →
    s.tsel = true ∧
    ∃ t, exec (.step c) s = .next t ∧
      t.lineOut = (s.cell .txbuf s.bcnt.toNat).getLsbD (7 - s.bitcnt.toNat) ∧
      t.acc = (if s.bitcnt = 0 then s.acc + (s.cell .txbuf s.bcnt.toNat).setWidth 32 else s.acc) ∧
      t.rsp = 0 ∧
      (s.bitcnt ≠ 7 → t.bitcnt = s.bitcnt + 1 ∧ t.bcnt = s.bcnt ∧ t.phase = .txPay) ∧
      (s.bitcnt = 7 → s.bcnt.toNat + 1 ≠ (metaSize s.txm).toNat →
        t.bitcnt = 0 ∧ t.bcnt = s.bcnt + 1 ∧ t.phase = .txPay) ∧
      (s.bitcnt = 7 → s.bcnt.toNat + 1 = (metaSize s.txm).toNat →
        t.bitcnt = 0 ∧ t.bcnt = 0 ∧ t.phase = .txPck) ∧
      t = { s with
        lineOut := t.lineOut, acc := t.acc, bitcnt := t.bitcnt, bcnt := t.bcnt, phase := t.phase, rsp := t.rsp }

/-- R179. -/
def Obligations.TxPckDrivesThePayloadChecksum : Prop :=
  ∀ (s : State) (c : Level) (o : Octet), s.phase = .txPck → (digest s.acc)[s.bcnt.toNat]? = some o →
    s.tsel = false ∧
    ∃ t, exec (.step c) s = .next t ∧
      t.lineOut = o.getLsbD (7 - s.bitcnt.toNat) ∧ t.rsp = 0 ∧
      (s.bitcnt ≠ 7 → t.bitcnt = s.bitcnt + 1 ∧ t.bcnt = s.bcnt ∧ t.phase = .txPck) ∧
      (s.bitcnt = 7 → s.bcnt.toNat + 1 ≠ 4 → t.bitcnt = 0 ∧ t.bcnt = s.bcnt + 1 ∧ t.phase = .txPck) ∧
      (s.bitcnt = 7 → s.bcnt.toNat + 1 = 4 → t.bitcnt = 0 ∧ t.bcnt = 0 ∧ t.phase = .txEnd) ∧
      (s.sumIsRunning → t.acc = cksum (s.cells .txbuf (metaSize s.txm).toNat)) ∧
      t = { s with
        lineOut := t.lineOut, bitcnt := t.bitcnt, bcnt := t.bcnt, phase := t.phase, rsp := t.rsp }

/-- From R180: the step that releases the line. -/
def Obligations.TxEndReleasesTheLine : Prop :=
  ∀ (s : State) (c : Level), s.phase = .txEnd →
    exec (.step c) s = .next { s with phase := .idle, dir := false, rsp := 0 }

/-- R181 with R172, R180 and R7: from an executed `SEND`, `N` `STEP`s drive the frame, whatever their
continue flags, and one more releases the line. -/
def Obligations.SendDrivesTheFrame : Prop :=
  ∀ (s : State) (cs : List Level) (c : Level), s.Inv → s.phase = .idle → s.plen ≠ 0 →
    (metaSize s.txm).toNat ≤ s.params.maxPayload →
    cs.length = s.plen.toNat + 8 * (14 + (metaSize s.txm).toNat) →
    ∃ t u, exec .send s = .next t ∧
      driveUnits cs t =
        some (frame s.preamble s.txm (s.cells .txbuf (metaSize s.txm).toNat), u) ∧
      u.phase = .txEnd ∧
      exec (.step c) u = .next { s with
        dir := false, idx := 0, bitcnt := 0, bcnt := 0
        acc := cksum (s.cells .txbuf (metaSize s.txm).toNat)
        lineOut := (cksum (s.cells .txbuf (metaSize s.txm).toNat)).getLsbD 0
        rsp := 0 }

/-! ## Reception (43_frame_rx.md) -/

/-- R200. -/
def Obligations.PollStartsARead : Prop :=
  encode .poll = 0xC000 ∧
  ∀ s : State,
    (s.phase ≠ .idle → exec .poll s = .next (s.refuse .state)) ∧
    (s.phase = .idle → s.plen = 0 → exec .poll s = .next (s.refuse .range)) ∧
    (s.phase = .idle → s.plen ≠ 0 → exec .poll s = .next { s with
      dir := false, ok := false, fail := false, reason := .none
      phase := .rxSync, idx := 0, bitcnt := 0, bcnt := 0, acc := 0, rsp := 0 })

/-- R202 and R262: the stop samples nothing and leaves everything but the outcome. -/
def Obligations.StopRequestFailsTheRead : Prop :=
  (∀ (s : State) (r : Reason), s.failRead r = { s with reason := r, fail := true, phase := .idle }) ∧
  ∀ s : State,
    (s.phase = .rxSync → exec (.step false) s = .next { s with
      reason := .signalMismatch, fail := true, phase := .idle, rsp := 0 }) ∧
    (s.phase = .rxHeader ∨ s.phase = .rxPayload → exec (.step false) s = .next { s with
      reason := .cancelled, fail := true, phase := .idle, rsp := 0 })

/-- R203: the sample is stored at the match index, and a full block is compared in the same `STEP`. -/
def Obligations.SyncStepComparesWholeBlocks : Prop :=
  ∀ s : State, s.phase = .rxSync → s.idx.toNat < s.mbuf.length →
    s.tsel = false ∧
    ∃ t, exec (.step true) s = .next t ∧
      t.mbuf[s.idx.toNat]? = some s.lineIn ∧ (∀ j, j ≠ s.idx.toNat → t.mbuf[j]? = s.mbuf[j]?) ∧
      t.rsp = 0 ∧
      (s.idx + 1 ≠ s.plen → t = { s with mbuf := t.mbuf, rsp := t.rsp, idx := s.idx + 1 }) ∧
      (s.idx + 1 = s.plen → (∀ j, j < s.plen.toNat → t.mbuf[j]? = s.pat[j]?) → t = { s with
        mbuf := t.mbuf, rsp := t.rsp, phase := .rxHeader, idx := 0, bitcnt := 0, bcnt := 0, acc := 0 }) ∧
      (s.idx + 1 = s.plen → ¬(∀ j, j < s.plen.toNat → t.mbuf[j]? = s.pat[j]?) → t = { s with
        mbuf := t.mbuf, rsp := t.rsp, idx := 0 })

/-- From R204: a unit that does not complete an octet. -/
def Obligations.SampleIsShiftedIntoTheOctet : Prop :=
  ∀ s : State, s.phase = .rxHeader ∨ s.phase = .rxPayload → s.bitcnt ≠ 7 →
    ∃ t, exec (.step true) s = .next t ∧
      t.shreg.toNat = (2 * s.shreg.toNat + s.lineIn.toNat) % 256 ∧ t.bitcnt = s.bitcnt + 1 ∧ t.rsp = 0 ∧
      t = { s with shreg := t.shreg, bitcnt := t.bitcnt, rsp := t.rsp }

/-- R205, R206 and R207, with R204 for the eighth unit: an octet of the header completed. -/
def Obligations.HeaderOctetIsCheckedWhenComplete : Prop :=
  ∀ (s : State) (o : Octet), s.phase = .rxHeader → s.bitcnt = 7 →
    o.toNat = (2 * s.shreg.toNat + s.lineIn.toNat) % 256 →
    s.tsel = false ∧
    (s.bcnt.toNat < 6 → exec (.step true) s = .next { s with
      shreg := o, bitcnt := 0, hdr := s.hdr.setIfInBounds s.bcnt.toNat o
      acc := s.acc + o.setWidth 32, bcnt := s.bcnt + 1, rsp := 0 }) ∧
    (6 ≤ s.bcnt.toNat → s.bcnt.toNat < 9 → exec (.step true) s = .next { s with
      shreg := o, bitcnt := 0, rxck := s.rxck.setIfInBounds (s.bcnt.toNat - 6) o
      bcnt := s.bcnt + 1, rsp := 0 }) ∧
    (s.bcnt.toNat = 9 → s.rxck.setIfInBounds 3 o ≠ digest s.acc → exec (.step true) s = .next { s with
      shreg := o, bitcnt := 0, rxck := s.rxck.setIfInBounds 3 o, bcnt := 10
      reason := .integrityFailure, fail := true, phase := .idle, rsp := 0 }) ∧
    (s.bcnt.toNat = 9 → s.rxck.setIfInBounds 3 o = digest s.acc →
      s.params.maxPayload < (metaSize s.hdr).toNat → exec (.step true) s = .next { s with
        shreg := o, bitcnt := 0, rxck := s.rxck.setIfInBounds 3 o, bcnt := 10, rxm := s.hdr
        reason := .integrityFailure, fail := true, phase := .idle, rsp := 0 }) ∧
    (s.bcnt.toNat = 9 → s.rxck.setIfInBounds 3 o = digest s.acc →
      (metaSize s.hdr).toNat ≤ s.params.maxPayload → exec (.step true) s = .next { s with
        shreg := o, bitcnt := 0, rxck := s.rxck.setIfInBounds 3 o, bcnt := 0, rxm := s.hdr
        acc := 0, phase := .rxPayload, rsp := 0 }) ∧
    (s.sumIsRunning → 6 ≤ s.bcnt.toNat → s.acc = cksum s.hdr.toList)

/-- From R208, with R204 for the eighth unit: an octet of the payload, or one of the first three of
its checksum, completed. The cell stored to is `STAGE[BCNT]`; every other cell reads as before. -/
def Obligations.PayloadOctetIsStaged : Prop :=
  ∀ (s : State) (o : Octet), s.phase = .rxPayload → s.bitcnt = 7 →
    (metaSize s.rxm).toNat ≤ s.params.maxPayload →
    o.toNat = (2 * s.shreg.toNat + s.lineIn.toNat) % 256 →
    (s.bcnt.toNat < (metaSize s.rxm).toNat → s.tsel = true ∧
      ∃ t, exec (.step true) s = .next t ∧
        t.cell .stage s.bcnt.toNat = o ∧
        (∀ b i, ¬(b = .stage ∧ i = s.bcnt.toNat) → t.cell b i = s.cell b i) ∧
        t = { s with
          shreg := o, bitcnt := 0, stage := t.stage, acc := s.acc + o.setWidth 32
          bcnt := s.bcnt + 1, rsp := 0 }) ∧
    ((metaSize s.rxm).toNat ≤ s.bcnt.toNat → s.bcnt.toNat < (metaSize s.rxm).toNat + 3 →
      s.tsel = false ∧ exec (.step true) s = .next { s with
        shreg := o, bitcnt := 0, rxck := s.rxck.setIfInBounds (s.bcnt.toNat - (metaSize s.rxm).toNat) o
        bcnt := s.bcnt + 1, rsp := 0 })

/-- R209, R210 and R211: the last octet of the payload checksum completes the read. -/
def Obligations.VerifiedPayloadIsPublished : Prop :=
  ∀ (s : State) (o : Octet), s.phase = .rxPayload → s.bitcnt = 7 →
    (metaSize s.rxm).toNat ≤ s.params.maxPayload → s.bcnt.toNat = (metaSize s.rxm).toNat + 3 →
    o.toNat = (2 * s.shreg.toNat + s.lineIn.toNat) % 256 →
    (s.sumIsRunning → s.acc = cksum (s.cells .stage (metaSize s.rxm).toNat)) ∧
    (s.rxck.setIfInBounds 3 o ≠ digest s.acc → exec (.step true) s = .next { s with
      shreg := o, bitcnt := 0, rxck := s.rxck.setIfInBounds 3 o, bcnt := s.bcnt + 1
      reason := .integrityFailure, fail := true, phase := .idle, rsp := 0 }) ∧
    (s.rxck.setIfInBounds 3 o = digest s.acc → ∃ t, exec (.step true) s = .next t ∧
      (∀ i, i < (metaSize s.rxm).toNat → t.cell .pub i = s.cell .stage i) ∧
      (∀ i, (metaSize s.rxm).toNat ≤ i → t.cell .pub i = s.cell .pub i) ∧
      (∀ i, t.cell .txbuf i = s.cell .txbuf i ∧ t.cell .stage i = s.cell .stage i) ∧
      t = { s with
        shreg := o, bitcnt := 0, rxck := s.rxck.setIfInBounds 3 o, bcnt := s.bcnt + 1
        pub := t.pub, publen := metaSize s.rxm, ok := true, phase := .idle, rsp := 0 })

/-- R213: from the start of the search, the read leaves `RX_SYNC` for `RX_HEADER` at the first whole
block that equals the preamble, and at no other point. -/
def Obligations.DetectorIsBlockAligned : Prop :=
  ∀ (s : State) (us : List Level), s.Inv → s.phase = .rxSync → s.idx = 0 →
    ((∀ j, (j + 1) * s.plen.toNat ≤ us.length → block s.plen.toNat us j ≠ s.preamble) →
      ∃ t, sampleUnits us s = some t ∧ t.phase = .rxSync ∧ t.idx.toNat = us.length % s.plen.toNat) ∧
    (∀ k, us.length = (k + 1) * s.plen.toNat → (∀ j, j < k → block s.plen.toNat us j ≠ s.preamble) →
      block s.plen.toNat us k = s.preamble →
      ∃ t, sampleUnits us s = some t ∧ t.phase = .rxHeader ∧ t.idx = 0 ∧ t.bitcnt = 0 ∧ t.bcnt = 0 ∧
        t.acc = 0)

/-- From R213 to R215 and R211: a frame that begins at a block boundary, after blocks that do not
match, is received and published; `kL + 8 * (14 + n)` `STEP`s where its preamble is block `k`. -/
def Obligations.ReceivedFrameIsPublished : Prop :=
  ∀ (s : State) (noise : List Level) (k : Nat) (record : MetaRecord) (payload : List Octet),
    s.Inv → s.phase = .idle → s.plen ≠ 0 →
    noise.length = k * s.plen.toNat → (∀ j, j < k → block s.plen.toNat noise j ≠ s.preamble) →
    payload.length = (metaSize record).toNat → payload.length ≤ s.params.maxPayload →
    (noise ++ frame s.preamble record payload).length =
      (k + 1) * s.plen.toNat + 8 * (14 + payload.length) ∧
    ∃ t u, exec .poll s = .next t ∧
      sampleUnits (noise ++ frame s.preamble record payload) t = some u ∧
      u.phase = .idle ∧ u.ok = true ∧ u.fail = false ∧ u.reason = .none ∧
      u.publen = metaSize record ∧ u.rxm = record ∧ u.cells .pub payload.length = payload ∧
      (∀ i, payload.length ≤ i → u.cell .pub i = s.cell .pub i) ∧
      u.acc = cksum payload ∧ u.bcnt.toNat = payload.length + 4 ∧
      (u.plen = s.plen ∧ u.pat = s.pat ∧ u.txm = s.txm ∧ u.txbuf = s.txbuf ∧ u.ptr = s.ptr ∧
        u.cmderr = s.cmderr ∧ u.ecode = s.ecode ∧ u.lineOut = s.lineOut ∧ u.dir = false)

/-- The source's property S2 (95_test_vectors.md): one changed octet of the metadata or of the payload
block, the rest as sent, ends the read with `IntegrityFailure` and publishes nothing. The frame's
preamble is the first block after `POLL`. -/
def Obligations.OneChangedOctetFailsTheRead : Prop :=
  ∀ (s : State) (record : MetaRecord) (payload : List Octet) (o : Octet), s.Inv → s.phase = .idle →
    s.plen ≠ 0 → payload.length = (metaSize record).toNat → payload.length ≤ s.params.maxPayload →
    ∃ t, exec .poll s = .next t ∧
      (∀ i : Fin 6, record[i] ≠ o →
        ∃ u, sampleUnits (s.preamble ++ octetsBits (record.set i o).toList ++
            checksumBits record.toList) t = some u ∧
          failedUnpublished s u ∧ u.rxm = s.rxm) ∧
      (∀ i, i < payload.length → payload[i]? ≠ some o →
        ∃ u, sampleUnits (s.preamble ++ octetsBits record.toList ++ checksumBits record.toList ++
            octetsBits (payload.set i o) ++ checksumBits payload) t = some u ∧
          failedUnpublished s u ∧ u.rxm = record)

/-- The source's property S1 (95_test_vectors.md), under the interleaving of 20_memory.md R84: on a
perfect loopback the reader publishes what the sender sends. -/
def Obligations.LoopbackRoundTrip : Prop :=
  ∀ a b : State, a.Inv → b.Inv → a.phase = .idle → b.phase = .idle → a.plen ≠ 0 → b.plen = a.plen →
    b.preamble = a.preamble → (metaSize a.txm).toNat ≤ a.params.maxPayload →
    (metaSize a.txm).toNat ≤ b.params.maxPayload →
    ∃ a1 b1 a2 b2, exec .send a = .next a1 ∧ exec .poll b = .next b1 ∧
      loopback (frameUnits a.plen.toNat (metaSize a.txm).toNat) a1 b1 = some (a2, b2) ∧
      a2.phase = .txEnd ∧ b2.phase = .idle ∧ b2.ok = true ∧ b2.fail = false ∧
      b2.publen = metaSize a.txm ∧ b2.rxm = a.txm ∧
      b2.cells .pub (metaSize a.txm).toNat = a.cells .txbuf (metaSize a.txm).toNat

/-! ## The whole machine -/

/-- R182, and the phase sequence of R215: the phase moves along the listed edges alone, and
`TX_PAY` is skipped exactly when `size(TXM) = 0`. -/
def Obligations.PhaseMovesAlongTheListedEdges : Prop :=
  ∀ (i : Instr) (s t : State), exec i s = .next t →
    (t.phase = s.phase ∨
      (i = .poll ∧ s.phase = .idle ∧ t.phase = .rxSync) ∨
      (i = .send ∧ s.phase = .idle ∧ t.phase = .txPre) ∨
      ((∃ c, i = .step c) ∧ t.phase ∈ stepSuccessors s.phase)) ∧
    (s.phase = .txEnd → (∃ c, i = .step c) → t.phase = .idle) ∧
    (s.phase = .txMck → (t.phase = .txPck → metaSize s.txm = 0) ∧ (t.phase = .txPay → metaSize s.txm ≠ 0))

/-- From R214 and R260: a read in progress, undecided as every read in progress is, ends in success,
integrity failure or cancellation, with exactly one of `OK` and `FAIL` at 1. -/
def Obligations.ReadEndsInOneOfThreeWays : Prop :=
  ∀ (s t : State) (c : Level), s.rxBusy = true → s.ok = false → s.fail = false →
    exec (.step c) s = .next t → t.phase = .idle →
    (t.ok = true ∧ t.fail = false ∧ t.reason = s.reason ∧ c = true ∧ s.phase = .rxPayload) ∨
    (t.ok = false ∧ t.fail = true ∧ t.reason = .integrityFailure ∧ c = true ∧ s.phase ≠ .rxSync) ∨
    (t.ok = false ∧ t.fail = true ∧ c = false ∧
      t.reason = if s.phase = .rxSync then .signalMismatch else .cancelled)

/-- The invariants hold after reset, and after a `RESET` in any configuration of R6. -/
def Obligations.InvariantHoldsAtReset : Prop :=
  State.reset.Inv ∧ State.reset.sumIsRunning ∧
  ∀ s : State, s.params.wf → s.takeReset.Inv ∧ s.takeReset.sumIsRunning

/-- Every step keeps the invariant: legal positions of the sequencer and bounds of every counter
(R29), `PMAX` elements of `PAT` and `MBUF`, canonical buffers, only written cells of `PUB` readable
(R28), `DIR = 1` exactly when `PHASE` is 4 to 9 (R38), `OK` and `FAIL` never both 1 (R39). -/
def Obligations.EveryStepKeepsTheInvariant : Prop :=
  ∀ s t : State, s.Inv → step s = .next t → t.Inv

/-- In a state with the invariant every step goes on: whatever is presented, the outcome is a next
state (93_implementation_defined.md, part 1; R95). -/
def Obligations.EveryStepGoesOn : Prop :=
  ∀ s : State, s.Inv → s.goesOn

/-- Every step keeps the accumulator the running checksum of the segment in progress, whatever
command the host issues (R176 to R179, R205 to R209, R311). -/
def Obligations.EveryStepKeepsTheRunningChecksum : Prop :=
  ∀ s t : State, s.Inv → s.sumIsRunning → step s = .next t → t.sumIsRunning

/-- From R28: `PUB` and `PUBLEN` change only in the `STEP` that ends a successful read (and by `RESET`). -/
def Obligations.PublishedPayloadChangesOnlyOnSuccess : Prop :=
  ∀ s t : State, step s = .next t →
    (t.pub = s.pub ∧ t.publen = s.publen) ∨
    (∃ e rest, s.inputs = e :: rest ∧ e.rst = true) ∨
    (s.phase = .rxPayload ∧ t.phase = .idle ∧ t.ok = true ∧ t.publen = metaSize s.rxm ∧
      ∀ i, i < (metaSize s.rxm).toNat → t.cell .pub i = s.cell .stage i)

/-- R82: while a send or a read is in progress the configuration is constant, and the commands that
would write it are refused. -/
def Obligations.ConfigurationIsConstantWhileBusy : Prop :=
  ∀ s : State, s.phase ≠ .idle →
    (∀ t, (∀ e rest, s.inputs = e :: rest → e.rst = false) → step s = .next t →
      t.plen = s.plen ∧ t.pat = s.pat ∧ t.txm = s.txm ∧ t.txbuf = s.txbuf) ∧
    (∀ (n i j : Nat) (b : Level) (d : Octet),
      exec (.plen n) s = .next (s.refuse .state) ∧ exec (.pset i b) s = .next (s.refuse .state) ∧
      exec (.mset j d) s = .next (s.refuse .state) ∧ exec (.txwr d) s = .next (s.refuse .state))

/-- From R25: the engine neither reads nor writes `PTR`, and only `PTR`, `TXWR` and `RXRD` write it. -/
def Obligations.PointerIsOutOfTheEnginesReach : Prop :=
  (∀ (i : Instr) (s : State) (p : BitVec 16), i = .poll ∨ i = .send ∨ (∃ c, i = .step c) →
    exec i { s with ptr := p } = onNext (fun t => { t with ptr := p }) (exec i s)) ∧
  ∀ (i : Instr) (s t : State), exec i s = .next t → t.ptr ≠ s.ptr →
    (∃ h d, i = .ptr h d) ∨ (∃ d, i = .txwr d) ∨ i = .rxrd

/-- From R50 and R201: `line_in` is read by `STEP 1` in the receive phases alone. -/
def Obligations.LineIsSampledOnlyInAReadStep : Prop :=
  ∀ (i : Instr) (s : State) (u : Level), ¬(i = .step true ∧ s.rxBusy = true) →
    exec i { s with lineIn := u } = onNext (fun t => { t with lineIn := u }) (exec i s)

/-- From R26: `TXBUF` is read by `STEP` in `TX_PAY` alone (every other command, and `STEP` in every
other phase, does the same whatever it holds), and not even there does a response show it. -/
def Obligations.TransmitBufferIsReadByTheSendAlone : Prop :=
  (∀ (i : Instr) (s : State) (m : Memory), ¬((∃ c, i = .step c) ∧ s.phase = .txPay) →
    onNext (fun t => { t with txbuf := [] }) (exec i { s with txbuf := m }) =
      onNext (fun t => { t with txbuf := [] }) (exec i s)) ∧
  ∀ (i : Instr) (s : State) (m : Memory),
    onNext (fun t => { s with rsp := t.rsp }) (exec i { s with txbuf := m }) =
      onNext (fun t => { s with rsp := t.rsp }) (exec i s)

/-- From R6 and R48: the parameters of the block are fixed; no step changes them (the model's field,
log 7). -/
def Obligations.NoStepChangesTheParameters : Prop :=
  ∀ s t : State, step s = .next t → t.params = s.params
end

