-- ==== Sys2Proof/Laws/Decode.lean ====
section
/-! SUPPORT. The laws of the command word's fields (30_encoding.md R91): a word is its fields, and the fields of a word are what it was made of. -/

namespace Sys2Proof

/-- The value of a concatenation. -/
theorem toNat_append_eq {w v : Nat} (x : BitVec w) (y : BitVec v) :
    (x ++ y).toNat = x.toNat * 2 ^ v + y.toNat := by
  rw [BitVec.toNat_append, ← Nat.shiftLeft_add_eq_or_of_lt y.isLt, Nat.shiftLeft_eq]

/-- The value of a word, from its fields. -/
theorem wordOf_toNat (op a : BitVec 4) (d : Octet) :
    (wordOf op a d).toNat = op.toNat * 4096 + a.toNat * 256 + d.toNat := by
  refine (toNat_append_eq (op ++ a) d).trans ?_
  rw [toNat_append_eq op a]
  omega

theorem fieldOp_toNat (w : CmdWord) : (fieldOp w).toNat = w.toNat / 4096 := by
  simp only [fieldOp, BitVec.extractLsb'_toNat, Nat.shiftRight_eq_div_pow]
  omega

theorem fieldA_toNat (w : CmdWord) : (fieldA w).toNat = w.toNat / 256 % 16 := by
  simp only [fieldA, BitVec.extractLsb'_toNat, Nat.shiftRight_eq_div_pow]

theorem fieldD_toNat (w : CmdWord) : (fieldD w).toNat = w.toNat % 256 := by
  simp only [fieldD, BitVec.extractLsb'_toNat, Nat.shiftRight_zero]

@[simp] theorem fieldOp_wordOf (op a : BitVec 4) (d : Octet) : fieldOp (wordOf op a d) = op := by
  apply BitVec.eq_of_toNat_eq
  rw [fieldOp_toNat, wordOf_toNat]
  omega

@[simp] theorem fieldA_wordOf (op a : BitVec 4) (d : Octet) : fieldA (wordOf op a d) = a := by
  apply BitVec.eq_of_toNat_eq
  rw [fieldA_toNat, wordOf_toNat]
  omega

@[simp] theorem fieldD_wordOf (op a : BitVec 4) (d : Octet) : fieldD (wordOf op a d) = d := by
  apply BitVec.eq_of_toNat_eq
  rw [fieldD_toNat, wordOf_toNat]
  omega

/-- A word is made of its fields. -/
theorem wordOf_fields (w : CmdWord) : wordOf (fieldOp w) (fieldA w) (fieldD w) = w := by
  apply BitVec.eq_of_toNat_eq
  rw [wordOf_toNat, fieldOp_toNat, fieldA_toNat, fieldD_toNat]
  omega

/-- Two words with the same fields are equal. -/
theorem eq_of_fields {v w : CmdWord} (hop : fieldOp v = fieldOp w) (ha : fieldA v = fieldA w)
    (hd : fieldD v = fieldD w) : v = w := by
  rw [← wordOf_fields v, ← wordOf_fields w, hop, ha, hd]

end Sys2Proof
end

