-- ==== Sys2Proof/Laws/Bits.lean ====
section
/-! SUPPORT. The laws of the operand forms: the eight units of an octet, the octet that eight samples assemble, the checksum of a sequence and its readout (20_memory.md R70, 40_checksum.md R120 to R122). -/

namespace Sys2Proof.Machine

/-! ## The eight units of an octet (R70) -/

@[simp] theorem octetBits_length (o : Octet) : (octetBits o).length = 8 := rfl

/-- Unit `k` of an octet is `o[7 - k]` (R70, R175). -/
theorem octetBits_getElem? (o : Octet) (k : BitVec 3) : (octetBits o)[k.toNat]? = some (lineBit o k) := by
  obtain ⟨⟨n, h⟩⟩ := k
  interval_cases n <;> rfl

@[simp] theorem octetsBits_nil : octetsBits [] = [] := rfl

@[simp] theorem octetsBits_cons (o : Octet) (os : List Octet) :
    octetsBits (o :: os) = octetBits o ++ octetsBits os := rfl

theorem octetsBits_append (os ps : List Octet) : octetsBits (os ++ ps) = octetsBits os ++ octetsBits ps := by
  simp [octetsBits]

@[simp] theorem octetsBits_length (os : List Octet) : (octetsBits os).length = 8 * os.length := by
  induction os with
  | nil => rfl
  | cons o os ih => simp [ih]; omega

/-- One shift, bit by bit: the sample enters at bit 0 and the others move up (43_frame_rx.md R204). -/
theorem shiftIn_getLsbD (r : Octet) (u : Level) (i : Nat) :
    (shiftIn r u).getLsbD i = if i = 0 then u else (decide (i < 8) && r.getLsbD (i - 1)) := by
  simp only [shiftIn, BitVec.getLsbD_append, BitVec.getLsbD_extractLsb']
  rcases i with _ | i
  · simp
  · by_cases h : i < 7
    · simp [h, show i + 1 < 8 by omega]
    · simp [h, show ¬ i + 1 < 8 by omega]

/-- The value of a shift: doubled modulo 256, with the sample added (43_frame_rx.md R204). -/
theorem shiftIn_toNat (r : Octet) (u : Level) : (shiftIn r u).toNat = (2 * r.toNat + u.toNat) % 256 := by
  have h : ∀ r : Octet, ∀ u : Level, (shiftIn r u).toNat = (2 * r.toNat + u.toNat) % 256 := by decide
  exact h r u

/-- Eight samples of the units of an octet assemble that octet, whatever the register held (R204). -/
theorem foldl_shiftIn_octetBits (r o : Octet) : (octetBits o).foldl shiftIn r = o := by
  apply BitVec.eq_of_getLsbD_eq
  intro i hi
  simp only [octetBits, List.foldl_cons, List.foldl_nil, shiftIn_getLsbD]
  interval_cases i <;> simp

/-! ## The checksum (R120 to R122) -/

@[simp] theorem cksum_nil : cksum [] = 0 := rfl

@[simp] theorem cksum_cons (o : Octet) (os : List Octet) : cksum (o :: os) = zext32 o + cksum os := by
  apply BitVec.eq_of_toNat_eq
  simp [cksum, zext32, BitVec.toNat_add, BitVec.toNat_setWidth]

theorem cksum_append (os ps : List Octet) : cksum (os ++ ps) = cksum os + cksum ps := by
  induction os with
  | nil => simp
  | cons o os ih => simp [ih, BitVec.add_assoc]

/-- Absorbing one octet more (R122). -/
theorem cksum_concat (os : List Octet) (o : Octet) : cksum (os ++ [o]) = cksum os + zext32 o := by
  simp [cksum_append]

@[simp] theorem digest_getElem (a : BitVec 32) (k : Fin 4) :
    (digest a)[k] = a.extractLsb' (24 - 8 * k) 8 := by
  fin_cases k <;> rfl

/-- The readout loses nothing: two accumulators with the same four octets are equal (R121). -/
theorem digest_injective {a b : BitVec 32} (h : digest a = digest b) : a = b := by
  have h0 := congrArg (fun v : Digest => v[0]) h
  have h1 := congrArg (fun v : Digest => v[1]) h
  have h2 := congrArg (fun v : Digest => v[2]) h
  have h3 := congrArg (fun v : Digest => v[3]) h
  simp only [digest] at h0 h1 h2 h3
  apply BitVec.eq_of_toNat_eq
  have e0 := congrArg BitVec.toNat h0
  have e1 := congrArg BitVec.toNat h1
  have e2 := congrArg BitVec.toNat h2
  have e3 := congrArg BitVec.toNat h3
  simp [Nat.shiftRight_eq_div_pow] at e0 e1 e2 e3
  omega

/-! ## Halves of 16-bit values (20_memory.md R74) -/

theorem lowOctet_toNat (v : BitVec 16) : (lowOctet v).toNat = v.toNat % 256 := by
  simp only [lowOctet, BitVec.extractLsb'_toNat, Nat.shiftRight_zero]

theorem highOctet_toNat (v : BitVec 16) : (highOctet v).toNat = v.toNat / 256 := by
  simp only [highOctet, BitVec.extractLsb'_toNat, Nat.shiftRight_eq_div_pow]
  omega

theorem setHalf_low (v : BitVec 16) (d : Octet) :
    (setHalf v false d).toNat = v.toNat / 256 * 256 + d.toNat := by
  refine (toNat_append_eq (highOctet v) d).trans ?_
  rw [highOctet_toNat, show 2 ^ 8 = 256 from rfl]

theorem setHalf_high (v : BitVec 16) (d : Octet) :
    (setHalf v true d).toNat = d.toNat * 256 + v.toNat % 256 := by
  refine (toNat_append_eq d (lowOctet v)).trans ?_
  rw [lowOctet_toNat, show 2 ^ 8 = 256 from rfl]

/-- `size(m) = {m[1], m[0]}` as a number (R71). -/
theorem metaSize_toNat (m : MetaRecord) : (metaSize m).toNat = m[1].toNat * 256 + m[0].toNat :=
  toNat_append_eq m[1] m[0]

end Sys2Proof.Machine
end

