-- ==== Sys2Proof/Laws/State.lean ====
section
/-! SUPPORT. One lemma per field for each named update of the state, so that no later proof unfolds a record update. -/

namespace Sys2Proof.Machine

variable (s : State)

/-! ## respond: `rsp <- v` (30_encoding.md R92) writes the response alone. -/

@[simp] theorem State.respond_acc (v : Octet) : (s.respond v).acc = s.acc := rfl
@[simp] theorem State.respond_plen (v : Octet) : (s.respond v).plen = s.plen := rfl
@[simp] theorem State.respond_pat (v : Octet) : (s.respond v).pat = s.pat := rfl
@[simp] theorem State.respond_txm (v : Octet) : (s.respond v).txm = s.txm := rfl
@[simp] theorem State.respond_ptr (v : Octet) : (s.respond v).ptr = s.ptr := rfl
@[simp] theorem State.respond_txbuf (v : Octet) : (s.respond v).txbuf = s.txbuf := rfl
@[simp] theorem State.respond_stage (v : Octet) : (s.respond v).stage = s.stage := rfl
@[simp] theorem State.respond_pub (v : Octet) : (s.respond v).pub = s.pub := rfl
@[simp] theorem State.respond_publen (v : Octet) : (s.respond v).publen = s.publen := rfl
@[simp] theorem State.respond_phase (v : Octet) : (s.respond v).phase = s.phase := rfl
@[simp] theorem State.respond_idx (v : Octet) : (s.respond v).idx = s.idx := rfl
@[simp] theorem State.respond_mbuf (v : Octet) : (s.respond v).mbuf = s.mbuf := rfl
@[simp] theorem State.respond_shreg (v : Octet) : (s.respond v).shreg = s.shreg := rfl
@[simp] theorem State.respond_bitcnt (v : Octet) : (s.respond v).bitcnt = s.bitcnt := rfl
@[simp] theorem State.respond_bcnt (v : Octet) : (s.respond v).bcnt = s.bcnt := rfl
@[simp] theorem State.respond_hdr (v : Octet) : (s.respond v).hdr = s.hdr := rfl
@[simp] theorem State.respond_rxck (v : Octet) : (s.respond v).rxck = s.rxck := rfl
@[simp] theorem State.respond_rxm (v : Octet) : (s.respond v).rxm = s.rxm := rfl
@[simp] theorem State.respond_dir (v : Octet) : (s.respond v).dir = s.dir := rfl
@[simp] theorem State.respond_ok (v : Octet) : (s.respond v).ok = s.ok := rfl
@[simp] theorem State.respond_fail (v : Octet) : (s.respond v).fail = s.fail := rfl
@[simp] theorem State.respond_reason (v : Octet) : (s.respond v).reason = s.reason := rfl
@[simp] theorem State.respond_cmderr (v : Octet) : (s.respond v).cmderr = s.cmderr := rfl
@[simp] theorem State.respond_ecode (v : Octet) : (s.respond v).ecode = s.ecode := rfl
@[simp] theorem State.respond_lineOut (v : Octet) : (s.respond v).lineOut = s.lineOut := rfl
@[simp] theorem State.respond_params (v : Octet) : (s.respond v).params = s.params := rfl
@[simp] theorem State.respond_inputs (v : Octet) : (s.respond v).inputs = s.inputs := rfl
@[simp] theorem State.respond_lineIn (v : Octet) : (s.respond v).lineIn = s.lineIn := rfl
@[simp] theorem State.respond_rsp (v : Octet) : (s.respond v).rsp = v := rfl
@[simp] theorem State.respond_resets (v : Octet) : (s.respond v).resets = s.resets := rfl

/-! ## refuse: A refusal changes the error record and the response alone (60_exceptions.md R280). -/

@[simp] theorem State.refuse_acc (c : ErrorCode) : (s.refuse c).acc = s.acc := rfl
@[simp] theorem State.refuse_plen (c : ErrorCode) : (s.refuse c).plen = s.plen := rfl
@[simp] theorem State.refuse_pat (c : ErrorCode) : (s.refuse c).pat = s.pat := rfl
@[simp] theorem State.refuse_txm (c : ErrorCode) : (s.refuse c).txm = s.txm := rfl
@[simp] theorem State.refuse_ptr (c : ErrorCode) : (s.refuse c).ptr = s.ptr := rfl
@[simp] theorem State.refuse_txbuf (c : ErrorCode) : (s.refuse c).txbuf = s.txbuf := rfl
@[simp] theorem State.refuse_stage (c : ErrorCode) : (s.refuse c).stage = s.stage := rfl
@[simp] theorem State.refuse_pub (c : ErrorCode) : (s.refuse c).pub = s.pub := rfl
@[simp] theorem State.refuse_publen (c : ErrorCode) : (s.refuse c).publen = s.publen := rfl
@[simp] theorem State.refuse_phase (c : ErrorCode) : (s.refuse c).phase = s.phase := rfl
@[simp] theorem State.refuse_idx (c : ErrorCode) : (s.refuse c).idx = s.idx := rfl
@[simp] theorem State.refuse_mbuf (c : ErrorCode) : (s.refuse c).mbuf = s.mbuf := rfl
@[simp] theorem State.refuse_shreg (c : ErrorCode) : (s.refuse c).shreg = s.shreg := rfl
@[simp] theorem State.refuse_bitcnt (c : ErrorCode) : (s.refuse c).bitcnt = s.bitcnt := rfl
@[simp] theorem State.refuse_bcnt (c : ErrorCode) : (s.refuse c).bcnt = s.bcnt := rfl
@[simp] theorem State.refuse_hdr (c : ErrorCode) : (s.refuse c).hdr = s.hdr := rfl
@[simp] theorem State.refuse_rxck (c : ErrorCode) : (s.refuse c).rxck = s.rxck := rfl
@[simp] theorem State.refuse_rxm (c : ErrorCode) : (s.refuse c).rxm = s.rxm := rfl
@[simp] theorem State.refuse_dir (c : ErrorCode) : (s.refuse c).dir = s.dir := rfl
@[simp] theorem State.refuse_ok (c : ErrorCode) : (s.refuse c).ok = s.ok := rfl
@[simp] theorem State.refuse_fail (c : ErrorCode) : (s.refuse c).fail = s.fail := rfl
@[simp] theorem State.refuse_reason (c : ErrorCode) : (s.refuse c).reason = s.reason := rfl
@[simp] theorem State.refuse_cmderr (c : ErrorCode) : (s.refuse c).cmderr = true := rfl
@[simp] theorem State.refuse_ecode (c : ErrorCode) : (s.refuse c).ecode = if s.cmderr then s.ecode else c := rfl
@[simp] theorem State.refuse_lineOut (c : ErrorCode) : (s.refuse c).lineOut = s.lineOut := rfl
@[simp] theorem State.refuse_params (c : ErrorCode) : (s.refuse c).params = s.params := rfl
@[simp] theorem State.refuse_inputs (c : ErrorCode) : (s.refuse c).inputs = s.inputs := rfl
@[simp] theorem State.refuse_lineIn (c : ErrorCode) : (s.refuse c).lineIn = s.lineIn := rfl
@[simp] theorem State.refuse_rsp (c : ErrorCode) : (s.refuse c).rsp = 0 := rfl
@[simp] theorem State.refuse_resets (c : ErrorCode) : (s.refuse c).resets = s.resets := rfl

/-! ## acknowledge: The acknowledgement of a refusal (44_system.md R241). -/

@[simp] theorem State.acknowledge_acc : (s.acknowledge).acc = s.acc := rfl
@[simp] theorem State.acknowledge_plen : (s.acknowledge).plen = s.plen := rfl
@[simp] theorem State.acknowledge_pat : (s.acknowledge).pat = s.pat := rfl
@[simp] theorem State.acknowledge_txm : (s.acknowledge).txm = s.txm := rfl
@[simp] theorem State.acknowledge_ptr : (s.acknowledge).ptr = s.ptr := rfl
@[simp] theorem State.acknowledge_txbuf : (s.acknowledge).txbuf = s.txbuf := rfl
@[simp] theorem State.acknowledge_stage : (s.acknowledge).stage = s.stage := rfl
@[simp] theorem State.acknowledge_pub : (s.acknowledge).pub = s.pub := rfl
@[simp] theorem State.acknowledge_publen : (s.acknowledge).publen = s.publen := rfl
@[simp] theorem State.acknowledge_phase : (s.acknowledge).phase = s.phase := rfl
@[simp] theorem State.acknowledge_idx : (s.acknowledge).idx = s.idx := rfl
@[simp] theorem State.acknowledge_mbuf : (s.acknowledge).mbuf = s.mbuf := rfl
@[simp] theorem State.acknowledge_shreg : (s.acknowledge).shreg = s.shreg := rfl
@[simp] theorem State.acknowledge_bitcnt : (s.acknowledge).bitcnt = s.bitcnt := rfl
@[simp] theorem State.acknowledge_bcnt : (s.acknowledge).bcnt = s.bcnt := rfl
@[simp] theorem State.acknowledge_hdr : (s.acknowledge).hdr = s.hdr := rfl
@[simp] theorem State.acknowledge_rxck : (s.acknowledge).rxck = s.rxck := rfl
@[simp] theorem State.acknowledge_rxm : (s.acknowledge).rxm = s.rxm := rfl
@[simp] theorem State.acknowledge_dir : (s.acknowledge).dir = s.dir := rfl
@[simp] theorem State.acknowledge_ok : (s.acknowledge).ok = s.ok := rfl
@[simp] theorem State.acknowledge_fail : (s.acknowledge).fail = s.fail := rfl
@[simp] theorem State.acknowledge_reason : (s.acknowledge).reason = s.reason := rfl
@[simp] theorem State.acknowledge_cmderr : (s.acknowledge).cmderr = false := rfl
@[simp] theorem State.acknowledge_ecode : (s.acknowledge).ecode = .none := rfl
@[simp] theorem State.acknowledge_lineOut : (s.acknowledge).lineOut = s.lineOut := rfl
@[simp] theorem State.acknowledge_params : (s.acknowledge).params = s.params := rfl
@[simp] theorem State.acknowledge_inputs : (s.acknowledge).inputs = s.inputs := rfl
@[simp] theorem State.acknowledge_lineIn : (s.acknowledge).lineIn = s.lineIn := rfl
@[simp] theorem State.acknowledge_rsp : (s.acknowledge).rsp = s.rsp := rfl
@[simp] theorem State.acknowledge_resets : (s.acknowledge).resets = s.resets := rfl

/-! ## failRead: A read failure (60_exceptions.md R262). -/

@[simp] theorem State.failRead_acc (r : Reason) : (s.failRead r).acc = s.acc := rfl
@[simp] theorem State.failRead_plen (r : Reason) : (s.failRead r).plen = s.plen := rfl
@[simp] theorem State.failRead_pat (r : Reason) : (s.failRead r).pat = s.pat := rfl
@[simp] theorem State.failRead_txm (r : Reason) : (s.failRead r).txm = s.txm := rfl
@[simp] theorem State.failRead_ptr (r : Reason) : (s.failRead r).ptr = s.ptr := rfl
@[simp] theorem State.failRead_txbuf (r : Reason) : (s.failRead r).txbuf = s.txbuf := rfl
@[simp] theorem State.failRead_stage (r : Reason) : (s.failRead r).stage = s.stage := rfl
@[simp] theorem State.failRead_pub (r : Reason) : (s.failRead r).pub = s.pub := rfl
@[simp] theorem State.failRead_publen (r : Reason) : (s.failRead r).publen = s.publen := rfl
@[simp] theorem State.failRead_phase (r : Reason) : (s.failRead r).phase = .idle := rfl
@[simp] theorem State.failRead_idx (r : Reason) : (s.failRead r).idx = s.idx := rfl
@[simp] theorem State.failRead_mbuf (r : Reason) : (s.failRead r).mbuf = s.mbuf := rfl
@[simp] theorem State.failRead_shreg (r : Reason) : (s.failRead r).shreg = s.shreg := rfl
@[simp] theorem State.failRead_bitcnt (r : Reason) : (s.failRead r).bitcnt = s.bitcnt := rfl
@[simp] theorem State.failRead_bcnt (r : Reason) : (s.failRead r).bcnt = s.bcnt := rfl
@[simp] theorem State.failRead_hdr (r : Reason) : (s.failRead r).hdr = s.hdr := rfl
@[simp] theorem State.failRead_rxck (r : Reason) : (s.failRead r).rxck = s.rxck := rfl
@[simp] theorem State.failRead_rxm (r : Reason) : (s.failRead r).rxm = s.rxm := rfl
@[simp] theorem State.failRead_dir (r : Reason) : (s.failRead r).dir = s.dir := rfl
@[simp] theorem State.failRead_ok (r : Reason) : (s.failRead r).ok = s.ok := rfl
@[simp] theorem State.failRead_fail (r : Reason) : (s.failRead r).fail = true := rfl
@[simp] theorem State.failRead_reason (r : Reason) : (s.failRead r).reason = r := rfl
@[simp] theorem State.failRead_cmderr (r : Reason) : (s.failRead r).cmderr = s.cmderr := rfl
@[simp] theorem State.failRead_ecode (r : Reason) : (s.failRead r).ecode = s.ecode := rfl
@[simp] theorem State.failRead_lineOut (r : Reason) : (s.failRead r).lineOut = s.lineOut := rfl
@[simp] theorem State.failRead_params (r : Reason) : (s.failRead r).params = s.params := rfl
@[simp] theorem State.failRead_inputs (r : Reason) : (s.failRead r).inputs = s.inputs := rfl
@[simp] theorem State.failRead_lineIn (r : Reason) : (s.failRead r).lineIn = s.lineIn := rfl
@[simp] theorem State.failRead_rsp (r : Reason) : (s.failRead r).rsp = s.rsp := rfl
@[simp] theorem State.failRead_resets (r : Reason) : (s.failRead r).resets = s.resets := rfl

/-! ## clearOutcome: The cleared outcome (43_frame_rx.md R200). -/

@[simp] theorem State.clearOutcome_acc : (s.clearOutcome).acc = s.acc := rfl
@[simp] theorem State.clearOutcome_plen : (s.clearOutcome).plen = s.plen := rfl
@[simp] theorem State.clearOutcome_pat : (s.clearOutcome).pat = s.pat := rfl
@[simp] theorem State.clearOutcome_txm : (s.clearOutcome).txm = s.txm := rfl
@[simp] theorem State.clearOutcome_ptr : (s.clearOutcome).ptr = s.ptr := rfl
@[simp] theorem State.clearOutcome_txbuf : (s.clearOutcome).txbuf = s.txbuf := rfl
@[simp] theorem State.clearOutcome_stage : (s.clearOutcome).stage = s.stage := rfl
@[simp] theorem State.clearOutcome_pub : (s.clearOutcome).pub = s.pub := rfl
@[simp] theorem State.clearOutcome_publen : (s.clearOutcome).publen = s.publen := rfl
@[simp] theorem State.clearOutcome_phase : (s.clearOutcome).phase = s.phase := rfl
@[simp] theorem State.clearOutcome_idx : (s.clearOutcome).idx = s.idx := rfl
@[simp] theorem State.clearOutcome_mbuf : (s.clearOutcome).mbuf = s.mbuf := rfl
@[simp] theorem State.clearOutcome_shreg : (s.clearOutcome).shreg = s.shreg := rfl
@[simp] theorem State.clearOutcome_bitcnt : (s.clearOutcome).bitcnt = s.bitcnt := rfl
@[simp] theorem State.clearOutcome_bcnt : (s.clearOutcome).bcnt = s.bcnt := rfl
@[simp] theorem State.clearOutcome_hdr : (s.clearOutcome).hdr = s.hdr := rfl
@[simp] theorem State.clearOutcome_rxck : (s.clearOutcome).rxck = s.rxck := rfl
@[simp] theorem State.clearOutcome_rxm : (s.clearOutcome).rxm = s.rxm := rfl
@[simp] theorem State.clearOutcome_dir : (s.clearOutcome).dir = s.dir := rfl
@[simp] theorem State.clearOutcome_ok : (s.clearOutcome).ok = false := rfl
@[simp] theorem State.clearOutcome_fail : (s.clearOutcome).fail = false := rfl
@[simp] theorem State.clearOutcome_reason : (s.clearOutcome).reason = .none := rfl
@[simp] theorem State.clearOutcome_cmderr : (s.clearOutcome).cmderr = s.cmderr := rfl
@[simp] theorem State.clearOutcome_ecode : (s.clearOutcome).ecode = s.ecode := rfl
@[simp] theorem State.clearOutcome_lineOut : (s.clearOutcome).lineOut = s.lineOut := rfl
@[simp] theorem State.clearOutcome_params : (s.clearOutcome).params = s.params := rfl
@[simp] theorem State.clearOutcome_inputs : (s.clearOutcome).inputs = s.inputs := rfl
@[simp] theorem State.clearOutcome_lineIn : (s.clearOutcome).lineIn = s.lineIn := rfl
@[simp] theorem State.clearOutcome_rsp : (s.clearOutcome).rsp = s.rsp := rfl
@[simp] theorem State.clearOutcome_resets : (s.clearOutcome).resets = s.resets := rfl

/-! ## absorb: One octet absorbed (40_checksum.md R122). -/

@[simp] theorem State.absorb_acc (o : Octet) : (s.absorb o).acc = s.acc + zext32 o := rfl
@[simp] theorem State.absorb_plen (o : Octet) : (s.absorb o).plen = s.plen := rfl
@[simp] theorem State.absorb_pat (o : Octet) : (s.absorb o).pat = s.pat := rfl
@[simp] theorem State.absorb_txm (o : Octet) : (s.absorb o).txm = s.txm := rfl
@[simp] theorem State.absorb_ptr (o : Octet) : (s.absorb o).ptr = s.ptr := rfl
@[simp] theorem State.absorb_txbuf (o : Octet) : (s.absorb o).txbuf = s.txbuf := rfl
@[simp] theorem State.absorb_stage (o : Octet) : (s.absorb o).stage = s.stage := rfl
@[simp] theorem State.absorb_pub (o : Octet) : (s.absorb o).pub = s.pub := rfl
@[simp] theorem State.absorb_publen (o : Octet) : (s.absorb o).publen = s.publen := rfl
@[simp] theorem State.absorb_phase (o : Octet) : (s.absorb o).phase = s.phase := rfl
@[simp] theorem State.absorb_idx (o : Octet) : (s.absorb o).idx = s.idx := rfl
@[simp] theorem State.absorb_mbuf (o : Octet) : (s.absorb o).mbuf = s.mbuf := rfl
@[simp] theorem State.absorb_shreg (o : Octet) : (s.absorb o).shreg = s.shreg := rfl
@[simp] theorem State.absorb_bitcnt (o : Octet) : (s.absorb o).bitcnt = s.bitcnt := rfl
@[simp] theorem State.absorb_bcnt (o : Octet) : (s.absorb o).bcnt = s.bcnt := rfl
@[simp] theorem State.absorb_hdr (o : Octet) : (s.absorb o).hdr = s.hdr := rfl
@[simp] theorem State.absorb_rxck (o : Octet) : (s.absorb o).rxck = s.rxck := rfl
@[simp] theorem State.absorb_rxm (o : Octet) : (s.absorb o).rxm = s.rxm := rfl
@[simp] theorem State.absorb_dir (o : Octet) : (s.absorb o).dir = s.dir := rfl
@[simp] theorem State.absorb_ok (o : Octet) : (s.absorb o).ok = s.ok := rfl
@[simp] theorem State.absorb_fail (o : Octet) : (s.absorb o).fail = s.fail := rfl
@[simp] theorem State.absorb_reason (o : Octet) : (s.absorb o).reason = s.reason := rfl
@[simp] theorem State.absorb_cmderr (o : Octet) : (s.absorb o).cmderr = s.cmderr := rfl
@[simp] theorem State.absorb_ecode (o : Octet) : (s.absorb o).ecode = s.ecode := rfl
@[simp] theorem State.absorb_lineOut (o : Octet) : (s.absorb o).lineOut = s.lineOut := rfl
@[simp] theorem State.absorb_params (o : Octet) : (s.absorb o).params = s.params := rfl
@[simp] theorem State.absorb_inputs (o : Octet) : (s.absorb o).inputs = s.inputs := rfl
@[simp] theorem State.absorb_lineIn (o : Octet) : (s.absorb o).lineIn = s.lineIn := rfl
@[simp] theorem State.absorb_rsp (o : Octet) : (s.absorb o).rsp = s.rsp := rfl
@[simp] theorem State.absorb_resets (o : Octet) : (s.absorb o).resets = s.resets := rfl

/-! ## start: The start of a send, a read or a header (42_frame_tx.md R170, 43_frame_rx.md R200, R203). -/

@[simp] theorem State.start_acc (p : Phase) : (s.start p).acc = 0 := rfl
@[simp] theorem State.start_plen (p : Phase) : (s.start p).plen = s.plen := rfl
@[simp] theorem State.start_pat (p : Phase) : (s.start p).pat = s.pat := rfl
@[simp] theorem State.start_txm (p : Phase) : (s.start p).txm = s.txm := rfl
@[simp] theorem State.start_ptr (p : Phase) : (s.start p).ptr = s.ptr := rfl
@[simp] theorem State.start_txbuf (p : Phase) : (s.start p).txbuf = s.txbuf := rfl
@[simp] theorem State.start_stage (p : Phase) : (s.start p).stage = s.stage := rfl
@[simp] theorem State.start_pub (p : Phase) : (s.start p).pub = s.pub := rfl
@[simp] theorem State.start_publen (p : Phase) : (s.start p).publen = s.publen := rfl
@[simp] theorem State.start_phase (p : Phase) : (s.start p).phase = p := rfl
@[simp] theorem State.start_idx (p : Phase) : (s.start p).idx = 0 := rfl
@[simp] theorem State.start_mbuf (p : Phase) : (s.start p).mbuf = s.mbuf := rfl
@[simp] theorem State.start_shreg (p : Phase) : (s.start p).shreg = s.shreg := rfl
@[simp] theorem State.start_bitcnt (p : Phase) : (s.start p).bitcnt = 0 := rfl
@[simp] theorem State.start_bcnt (p : Phase) : (s.start p).bcnt = 0 := rfl
@[simp] theorem State.start_hdr (p : Phase) : (s.start p).hdr = s.hdr := rfl
@[simp] theorem State.start_rxck (p : Phase) : (s.start p).rxck = s.rxck := rfl
@[simp] theorem State.start_rxm (p : Phase) : (s.start p).rxm = s.rxm := rfl
@[simp] theorem State.start_dir (p : Phase) : (s.start p).dir = s.dir := rfl
@[simp] theorem State.start_ok (p : Phase) : (s.start p).ok = s.ok := rfl
@[simp] theorem State.start_fail (p : Phase) : (s.start p).fail = s.fail := rfl
@[simp] theorem State.start_reason (p : Phase) : (s.start p).reason = s.reason := rfl
@[simp] theorem State.start_cmderr (p : Phase) : (s.start p).cmderr = s.cmderr := rfl
@[simp] theorem State.start_ecode (p : Phase) : (s.start p).ecode = s.ecode := rfl
@[simp] theorem State.start_lineOut (p : Phase) : (s.start p).lineOut = s.lineOut := rfl
@[simp] theorem State.start_params (p : Phase) : (s.start p).params = s.params := rfl
@[simp] theorem State.start_inputs (p : Phase) : (s.start p).inputs = s.inputs := rfl
@[simp] theorem State.start_lineIn (p : Phase) : (s.start p).lineIn = s.lineIn := rfl
@[simp] theorem State.start_rsp (p : Phase) : (s.start p).rsp = s.rsp := rfl
@[simp] theorem State.start_resets (p : Phase) : (s.start p).resets = s.resets := rfl

/-! ## takeReset: every item of R20 at its reset value (70_reset_and_hazards.md R300) -/

@[simp] theorem State.takeReset_acc : s.takeReset.acc = 0 := rfl
@[simp] theorem State.takeReset_plen : s.takeReset.plen = 0 := rfl
@[simp] theorem State.takeReset_pat : s.takeReset.pat = List.replicate s.params.pmax false := rfl
@[simp] theorem State.takeReset_txm : s.takeReset.txm = Vector.replicate 6 0 := rfl
@[simp] theorem State.takeReset_ptr : s.takeReset.ptr = 0 := rfl
@[simp] theorem State.takeReset_txbuf : s.takeReset.txbuf = [] := rfl
@[simp] theorem State.takeReset_stage : s.takeReset.stage = [] := rfl
@[simp] theorem State.takeReset_pub : s.takeReset.pub = [] := rfl
@[simp] theorem State.takeReset_publen : s.takeReset.publen = 0 := rfl
@[simp] theorem State.takeReset_phase : s.takeReset.phase = .idle := rfl
@[simp] theorem State.takeReset_idx : s.takeReset.idx = 0 := rfl
@[simp] theorem State.takeReset_mbuf : s.takeReset.mbuf = List.replicate s.params.pmax false := rfl
@[simp] theorem State.takeReset_shreg : s.takeReset.shreg = 0 := rfl
@[simp] theorem State.takeReset_bitcnt : s.takeReset.bitcnt = 0 := rfl
@[simp] theorem State.takeReset_bcnt : s.takeReset.bcnt = 0 := rfl
@[simp] theorem State.takeReset_hdr : s.takeReset.hdr = Vector.replicate 6 0 := rfl
@[simp] theorem State.takeReset_rxck : s.takeReset.rxck = Vector.replicate 4 0 := rfl
@[simp] theorem State.takeReset_rxm : s.takeReset.rxm = Vector.replicate 6 0 := rfl
@[simp] theorem State.takeReset_dir : s.takeReset.dir = false := rfl
@[simp] theorem State.takeReset_ok : s.takeReset.ok = false := rfl
@[simp] theorem State.takeReset_fail : s.takeReset.fail = false := rfl
@[simp] theorem State.takeReset_reason : s.takeReset.reason = .none := rfl
@[simp] theorem State.takeReset_cmderr : s.takeReset.cmderr = false := rfl
@[simp] theorem State.takeReset_ecode : s.takeReset.ecode = .none := rfl
@[simp] theorem State.takeReset_lineOut : s.takeReset.lineOut = false := rfl
@[simp] theorem State.takeReset_params : s.takeReset.params = s.params := rfl
@[simp] theorem State.takeReset_inputs : s.takeReset.inputs = s.inputs := rfl
@[simp] theorem State.takeReset_lineIn : s.takeReset.lineIn = s.lineIn := rfl
@[simp] theorem State.takeReset_rsp : s.takeReset.rsp = 0 := rfl
@[simp] theorem State.takeReset_resets : s.takeReset.resets = s.resets + 1 := rfl

/-! ## The checks of 60_exceptions.md -/

theorem State.whenIdle_of_idle {s : State} (t : State) (h : s.phase = .idle) : s.whenIdle t = t := by
  simp [State.whenIdle, h]

theorem State.whenIdle_of_busy {s : State} (t : State) (h : s.phase ≠ .idle) : s.whenIdle t = s.refuse .state := by
  simp [State.whenIdle, h]

@[simp] theorem State.whenInRange_true (t : State) : s.whenInRange true t = t := rfl

@[simp] theorem State.whenInRange_false (t : State) : s.whenInRange false t = s.refuse .range := rfl

/-- The whole of what a checked command can leave: the executed state or a refusal of the state it had (R282 to R284). -/
theorem State.checked_cases (s t : State) (b : Bool) :
    (s.phase ≠ .idle ∧ s.whenIdle (s.whenInRange b t) = s.refuse .state) ∨
    (s.phase = .idle ∧ b = false ∧ s.whenIdle (s.whenInRange b t) = s.refuse .range) ∨
    (s.phase = .idle ∧ b = true ∧ s.whenIdle (s.whenInRange b t) = t) := by
  by_cases h : s.phase = .idle
  · cases b <;> simp [State.whenIdle, h]
  · exact .inl ⟨h, State.whenIdle_of_busy _ h⟩

end Sys2Proof.Machine
end

