-- ==== Sys2Proof/Laws/Step.lean ====
section
/-! SUPPORT. What a step, a command and a STEP command can do, said once: the inversion lemmas from which invariants are proved by cases. -/

namespace Sys2Proof.Machine

/-- What one step can do when it answers a next state: nothing is presented, a `RESET`, an illegal
word refused, or a command executed on the state with the event taken. -/
theorem step_cases {s t : State} (h : step s = .next t) :
    (s.inputs = [] ∧ t = s) ∨
    ∃ e rest, s.inputs = e :: rest ∧
      ((e.rst = false ∧ e.cmd = none ∧ t = { s with inputs := rest, lineIn := e.lineIn }) ∨
       (e.rst = true ∧ t = State.takeReset { s with inputs := rest, lineIn := e.lineIn }) ∨
       (∃ w d, e.rst = false ∧ e.cmd = some w ∧ decode w = .error d ∧
          t = State.refuse { s with inputs := rest, lineIn := e.lineIn } .illegal) ∨
       (∃ w i, e.rst = false ∧ e.cmd = some w ∧ decode w = .ok i ∧
          exec i { s with inputs := rest, lineIn := e.lineIn } = .next t)) := by
  cases hi : s.inputs with
  | nil =>
    simp only [step, State.takeEvent, hi] at h
    exact .inl ⟨rfl, by simpa using h.symm⟩
  | cons e rest =>
    refine .inr ⟨e, rest, rfl, ?_⟩
    simp only [step, State.takeEvent, hi, PortEvent.presented] at h
    cases hr : e.rst with
    | true =>
      simp only [hr, if_true] at h
      exact .inr (.inl ⟨rfl, by simpa using h.symm⟩)
    | false =>
      cases hc : e.cmd with
      | none =>
        simp only [hr, hc] at h
        exact .inl ⟨rfl, rfl, by simpa using h.symm⟩
      | some w =>
        simp only [hr, hc] at h
        cases hd : decode w with
        | error d =>
          simp [hd] at h
          exact .inr (.inr (.inl ⟨w, d, rfl, rfl, hd, by simpa using h.symm⟩))
        | ok i =>
          simp [hd] at h
          exact .inr (.inr (.inr ⟨w, i, rfl, rfl, hd, by simpa using h⟩))

/-- An executed `STEP` answers the state of its phase's rule with the response 0 (42_frame_tx.md R171). -/
theorem finishStep_next {r : Except Fault State} {t : State} :
    finishStep r = .next t ↔ ∃ u, r = .ok u ∧ t = u.respond 0 := by
  cases r <;> simp [finishStep, eq_comm]

/-- No `STEP` ends in a refusal of the model. -/
theorem finishStep_ne_refused (r : Except Fault State) (x : Refusal) : finishStep r ≠ .refused x := by
  cases r <;> simp [finishStep]

/-- What octet serialisation can do (42_frame_tx.md R175): the bit is driven, and the segment's test
is made after the eighth bit alone. -/
theorem driveBit_cases (s : State) (o : Octet) (f : State → State) :
    (s.bitcnt ≠ 7 ∧ s.driveBit o f = { s with lineOut := lineBit o s.bitcnt, bitcnt := s.bitcnt + 1 }) ∨
    (s.bitcnt = 7 ∧
      s.driveBit o f = f { s with lineOut := lineBit o s.bitcnt, bitcnt := 0, bcnt := s.bcnt + 1 }) := by
  by_cases h : s.bitcnt = 7
  · exact .inr ⟨h, by simp [State.driveBit, h]⟩
  · exact .inl ⟨h, if_pos h⟩

/-- What a sampled octet unit can do (43_frame_rx.md R204). -/
theorem octetUnit_cases (s : State) (u : Level) :
    (s.bitcnt ≠ 7 ∧ s.octetUnit u = .ok { s with shreg := shiftIn s.shreg u, bitcnt := s.bitcnt + 1 }) ∨
    (s.bitcnt = 7 ∧ s.phase = .rxHeader ∧
      s.octetUnit u = State.headerOctet { s with shreg := shiftIn s.shreg u, bitcnt := 0 } (shiftIn s.shreg u)) ∨
    (s.bitcnt = 7 ∧ s.phase ≠ .rxHeader ∧
      s.octetUnit u = State.payloadOctet { s with shreg := shiftIn s.shreg u, bitcnt := 0 } (shiftIn s.shreg u)) := by
  by_cases h : s.bitcnt = 7
  · by_cases hp : s.phase = .rxHeader
    · exact .inr (.inl ⟨h, hp, by simp [State.octetUnit, h, hp]⟩)
    · exact .inr (.inr ⟨h, hp, by simp [State.octetUnit, h, hp]⟩)
  · exact .inl ⟨h, if_pos h⟩

/-- What the receive step can do (43_frame_rx.md R201). -/
theorem stepRx_cases (c : Level) (s : State) :
    (c = false ∧ stepRx c s = .ok s.cancelRead) ∨
    (c = true ∧ s.phase = .rxSync ∧ stepRx c s = s.syncUnit s.lineIn) ∨
    (c = true ∧ s.phase ≠ .rxSync ∧ stepRx c s = s.octetUnit s.lineIn) := by
  cases c
  · exact .inl ⟨rfl, rfl⟩
  · by_cases hp : s.phase = .rxSync
    · exact .inr (.inl ⟨rfl, hp, by simp [stepRx, hp]⟩)
    · exact .inr (.inr ⟨rfl, hp, by simp [stepRx, hp]⟩)

/-- Which rule a `STEP` does (42_frame_tx.md R171, R173). -/
theorem execStep_cases (c : Level) (s : State) :
    (s.phase = .idle ∧ execStep c s = .next (s.refuse .state)) ∨
    (s.rxBusy = true ∧ execStep c s = finishStep (stepRx c s)) ∨
    (s.phase = .txPre ∧ execStep c s = finishStep (stepTxPre s)) ∨
    (s.phase = .txMeta ∧ execStep c s = finishStep (stepTxMeta s)) ∨
    (s.phase = .txMck ∧ execStep c s = finishStep (stepTxMck s)) ∨
    (s.phase = .txPay ∧ execStep c s = finishStep (stepTxPay s)) ∨
    (s.phase = .txPck ∧ execStep c s = finishStep (stepTxPck s)) ∨
    (s.phase = .txEnd ∧ execStep c s = finishStep (stepTxEnd s)) := by
  cases h : s.phase <;> simp [execStep, State.rxBusy, h]

/-- No command ends in a refusal of the model: every row of the opcode map has its meaning. -/
theorem exec_ne_refused (i : Instr) (s : State) (x : Refusal) : exec i s ≠ .refused x := by
  cases i with
  | mrd j => simp only [exec, execMrd]; split <;> simp
  | rdsr r => simp only [exec, execRdsr]; split <;> simp
  | step c =>
    simp only [exec]
    rcases execStep_cases c s with h | h | h | h | h | h | h | h <;>
      rw [h.2] <;> first | exact finishStep_ne_refused _ _ | simp
  | _ => simp [exec, execNop, execErrclr, execCkclr, execCkadd, execCkrd, execPlen, execPset, execMset,
      execPtr, execTxwr, execRxrd, execPoll, execSend]

end Sys2Proof.Machine
end

