-- ==== Sys2Proof/Laws/Engine.lean ====
section
/-! SUPPORT. What the STEP command can do, said once as a relation: one constructor per rule of 42_frame_tx.md and 43_frame_rx.md and per outcome of its tests. `execStep_next_iff` says that it is exactly what the meaning answers, so that an invariant is proved by cases on it and a completion by one constructor. -/

namespace Sys2Proof.Machine

/-- The octet that the eighth sample completes (43_frame_rx.md R204). -/
abbrev State.octetIn (s : State) : Octet := shiftIn s.shreg s.lineIn

/-- The accumulator after the octet's bit was driven (42_frame_tx.md R176, R178). -/
abbrev State.accWith (s : State) (o : Octet) : BitVec 32 := if s.bitcnt = 0 then s.acc + zext32 o else s.acc

/-- The effects of `STEP c` on `s`. -/
inductive StepEffect (c : Level) (s : State) : State → Prop where
  /-- R171: there is nothing to step. -/
  | refused (h : s.phase = .idle) :
      StepEffect c s (s.refuse .state)
  /-- R202. -/
  | stoppedSync (h : s.phase = .rxSync) (hc : c = false) :
      StepEffect c s ({ s with reason := .signalMismatch, fail := true, phase := .idle, rsp := 0 })
  /-- R202. -/
  | stopped (h : s.phase = .rxHeader ∨ s.phase = .rxPayload) (hc : c = false) :
      StepEffect c s ({ s with reason := .cancelled, fail := true, phase := .idle, rsp := 0 })
  /-- R203, a block not yet full. -/
  | sampled (h : s.phase = .rxSync) (hc : c = true) (hi : s.idx.toNat < s.mbuf.length) (hp : s.idx + 1 ≠ s.plen) :
      StepEffect c s ({ s with mbuf := s.mbuf.set s.idx.toNat s.lineIn, idx := s.idx + 1, rsp := 0 })
  /-- R203, a block that does not match. -/
  | mismatched (h : s.phase = .rxSync) (hc : c = true) (hi : s.idx.toNat < s.mbuf.length) (hp : s.idx + 1 = s.plen)
      (hm : (s.mbuf.set s.idx.toNat s.lineIn).take s.plen.toNat ≠ s.pat.take s.plen.toNat) :
      StepEffect c s ({ s with mbuf := s.mbuf.set s.idx.toNat s.lineIn, idx := 0, rsp := 0 })
  /-- R203, the preamble. -/
  | matched (h : s.phase = .rxSync) (hc : c = true) (hi : s.idx.toNat < s.mbuf.length) (hp : s.idx + 1 = s.plen)
      (hm : (s.mbuf.set s.idx.toNat s.lineIn).take s.plen.toNat = s.pat.take s.plen.toNat) :
      StepEffect c s ({ s with mbuf := s.mbuf.set s.idx.toNat s.lineIn, phase := .rxHeader, idx := 0, bitcnt := 0, bcnt := 0, acc := 0, rsp := 0 })
  /-- R204. -/
  | shifted (h : s.phase = .rxHeader ∨ s.phase = .rxPayload) (hc : c = true) (hb : s.bitcnt ≠ 7) :
      StepEffect c s ({ s with shreg := s.octetIn, bitcnt := s.bitcnt + 1, rsp := 0 })
  /-- R205, a metadata octet. -/
  | headerOctet (h : s.phase = .rxHeader) (hc : c = true) (hb : s.bitcnt = 7) (hn : s.bcnt.toNat < 6) :
      StepEffect c s ({ s with shreg := s.octetIn, bitcnt := 0, hdr := s.hdr.setIfInBounds s.bcnt.toNat s.octetIn, acc := s.acc + zext32 s.octetIn, bcnt := s.bcnt + 1, rsp := 0 })
  /-- R205, a checksum octet but the last. -/
  | headerSumOctet (h : s.phase = .rxHeader) (hc : c = true) (hb : s.bitcnt = 7) (hl : 6 ≤ s.bcnt.toNat) (hn : s.bcnt.toNat < 9) :
      StepEffect c s ({ s with shreg := s.octetIn, bitcnt := 0, rxck := s.rxck.setIfInBounds (s.bcnt.toNat - 6) s.octetIn, bcnt := s.bcnt + 1, rsp := 0 })
  /-- R206. -/
  | headerCorrupt (h : s.phase = .rxHeader) (hc : c = true) (hb : s.bitcnt = 7) (hn : s.bcnt.toNat = 9) (hk : s.rxck.setIfInBounds 3 s.octetIn ≠ digest s.acc) :
      StepEffect c s ({ s with shreg := s.octetIn, bitcnt := 0, rxck := s.rxck.setIfInBounds 3 s.octetIn, bcnt := 10, reason := .integrityFailure, fail := true, phase := .idle, rsp := 0 })
  /-- R207, the size cap. -/
  | headerOversize (h : s.phase = .rxHeader) (hc : c = true) (hb : s.bitcnt = 7) (hn : s.bcnt.toNat = 9) (hk : s.rxck.setIfInBounds 3 s.octetIn = digest s.acc)
      (hm : s.params.maxPayload < (metaSize s.hdr).toNat) :
      StepEffect c s ({ s with shreg := s.octetIn, bitcnt := 0, rxck := s.rxck.setIfInBounds 3 s.octetIn, bcnt := 10, rxm := s.hdr, reason := .integrityFailure, fail := true, phase := .idle, rsp := 0 })
  /-- R207. -/
  | headerVerified (h : s.phase = .rxHeader) (hc : c = true) (hb : s.bitcnt = 7) (hn : s.bcnt.toNat = 9) (hk : s.rxck.setIfInBounds 3 s.octetIn = digest s.acc)
      (hm : (metaSize s.hdr).toNat ≤ s.params.maxPayload) :
      StepEffect c s ({ s with shreg := s.octetIn, bitcnt := 0, rxck := s.rxck.setIfInBounds 3 s.octetIn, bcnt := 0, rxm := s.hdr, acc := 0, phase := .rxPayload, rsp := 0 })
  /-- R208, a payload octet. -/
  | payloadOctet (h : s.phase = .rxPayload) (hc : c = true) (hb : s.bitcnt = 7) (hn : s.bcnt.toNat < s.rxSize) (hm : s.bcnt.toNat < s.params.maxPayload) :
      StepEffect c s ({ s with shreg := s.octetIn, bitcnt := 0, stage := Memory.write s.stage s.bcnt.toNat s.octetIn, acc := s.acc + zext32 s.octetIn, bcnt := s.bcnt + 1, rsp := 0 })
  /-- R208, a checksum octet but the last. -/
  | payloadSumOctet (h : s.phase = .rxPayload) (hc : c = true) (hb : s.bitcnt = 7) (hl : s.rxSize ≤ s.bcnt.toNat) (hn : s.bcnt.toNat < s.rxSize + 3) :
      StepEffect c s ({ s with shreg := s.octetIn, bitcnt := 0, rxck := s.rxck.setIfInBounds (s.bcnt.toNat - s.rxSize) s.octetIn, bcnt := s.bcnt + 1, rsp := 0 })
  /-- R210. -/
  | payloadCorrupt (h : s.phase = .rxPayload) (hc : c = true) (hb : s.bitcnt = 7) (hn : s.bcnt.toNat = s.rxSize + 3) (hk : s.rxck.setIfInBounds 3 s.octetIn ≠ digest s.acc) :
      StepEffect c s ({ s with shreg := s.octetIn, bitcnt := 0, rxck := s.rxck.setIfInBounds 3 s.octetIn, bcnt := s.bcnt + 1, reason := .integrityFailure, fail := true, phase := .idle, rsp := 0 })
  /-- R211. -/
  | payloadVerified (h : s.phase = .rxPayload) (hc : c = true) (hb : s.bitcnt = 7) (hn : s.bcnt.toNat = s.rxSize + 3) (hk : s.rxck.setIfInBounds 3 s.octetIn = digest s.acc) :
      StepEffect c s ({ s with shreg := s.octetIn, bitcnt := 0, rxck := s.rxck.setIfInBounds 3 s.octetIn, bcnt := s.bcnt + 1, pub := Memory.adopt s.pub s.rxSize (s.cell .stage), publen := metaSize s.rxm, ok := true, phase := .idle, rsp := 0 })
  /-- R174. -/
  | preambleElement (u : Level) (h : s.phase = .txPre) (hu : s.pat[s.idx.toNat]? = some u) (hp : s.idx + 1 ≠ s.plen) :
      StepEffect c s ({ s with lineOut := u, idx := s.idx + 1, rsp := 0 })
  /-- R174. -/
  | preambleEnd (u : Level) (h : s.phase = .txPre) (hu : s.pat[s.idx.toNat]? = some u) (hp : s.idx + 1 = s.plen) :
      StepEffect c s ({ s with lineOut := u, phase := .txMeta, idx := 0, bitcnt := 0, bcnt := 0, rsp := 0 })
  /-- R175, R176. -/
  | metaBit (o : Octet) (h : s.phase = .txMeta) (ho : s.txm[s.bcnt.toNat]? = some o) (hb : s.bitcnt ≠ 7) :
      StepEffect c s ({ s with lineOut := lineBit o s.bitcnt, acc := s.accWith o, bitcnt := s.bitcnt + 1, rsp := 0 })
  /-- R175, R176. -/
  | metaOctet (o : Octet) (h : s.phase = .txMeta) (ho : s.txm[s.bcnt.toNat]? = some o) (hb : s.bitcnt = 7) (hn : s.bcnt.toNat < 5) :
      StepEffect c s ({ s with lineOut := lineBit o s.bitcnt, bitcnt := 0, bcnt := s.bcnt + 1, rsp := 0 })
  /-- R176. -/
  | metaEnd (o : Octet) (h : s.phase = .txMeta) (ho : s.txm[s.bcnt.toNat]? = some o) (hb : s.bitcnt = 7) (hn : s.bcnt.toNat = 5) :
      StepEffect c s ({ s with lineOut := lineBit o s.bitcnt, bitcnt := 0, bcnt := 0, phase := .txMck, rsp := 0 })
  /-- R175, R177. -/
  | metaSumBit (o : Octet) (h : s.phase = .txMck) (ho : (digest s.acc)[s.bcnt.toNat]? = some o) (hb : s.bitcnt ≠ 7) :
      StepEffect c s ({ s with lineOut := lineBit o s.bitcnt, bitcnt := s.bitcnt + 1, rsp := 0 })
  /-- R175, R177. -/
  | metaSumOctet (o : Octet) (h : s.phase = .txMck) (ho : (digest s.acc)[s.bcnt.toNat]? = some o) (hb : s.bitcnt = 7) (hn : s.bcnt.toNat < 3) :
      StepEffect c s ({ s with lineOut := lineBit o s.bitcnt, bitcnt := 0, bcnt := s.bcnt + 1, rsp := 0 })
  /-- R177. -/
  | metaSumEnd (o : Octet) (h : s.phase = .txMck) (ho : (digest s.acc)[s.bcnt.toNat]? = some o) (hb : s.bitcnt = 7) (hn : s.bcnt.toNat = 3) :
      StepEffect c s ({ s with lineOut := lineBit o s.bitcnt, bitcnt := 0, bcnt := 0, acc := 0, phase := if metaSize s.txm = 0 then .txPck else .txPay, rsp := 0 })
  /-- R175, R178. -/
  | payBit (h : s.phase = .txPay) (ho : s.bcnt.toNat < s.params.maxPayload) (hb : s.bitcnt ≠ 7) :
      StepEffect c s ({ s with lineOut := lineBit (s.cell .txbuf s.bcnt.toNat) s.bitcnt, acc := s.accWith (s.cell .txbuf s.bcnt.toNat), bitcnt := s.bitcnt + 1, rsp := 0 })
  /-- R175, R178. -/
  | payOctet (h : s.phase = .txPay) (ho : s.bcnt.toNat < s.params.maxPayload) (hb : s.bitcnt = 7) (hn : (s.bcnt + 1).toNat ≠ (metaSize s.txm).toNat) :
      StepEffect c s ({ s with lineOut := lineBit (s.cell .txbuf s.bcnt.toNat) s.bitcnt, bitcnt := 0, bcnt := s.bcnt + 1, rsp := 0 })
  /-- R178. -/
  | payEnd (h : s.phase = .txPay) (ho : s.bcnt.toNat < s.params.maxPayload) (hb : s.bitcnt = 7) (hn : (s.bcnt + 1).toNat = (metaSize s.txm).toNat) :
      StepEffect c s ({ s with lineOut := lineBit (s.cell .txbuf s.bcnt.toNat) s.bitcnt, bitcnt := 0, bcnt := 0, phase := .txPck, rsp := 0 })
  /-- R175, R179. -/
  | paySumBit (o : Octet) (h : s.phase = .txPck) (ho : (digest s.acc)[s.bcnt.toNat]? = some o) (hb : s.bitcnt ≠ 7) :
      StepEffect c s ({ s with lineOut := lineBit o s.bitcnt, bitcnt := s.bitcnt + 1, rsp := 0 })
  /-- R175, R179. -/
  | paySumOctet (o : Octet) (h : s.phase = .txPck) (ho : (digest s.acc)[s.bcnt.toNat]? = some o) (hb : s.bitcnt = 7) (hn : s.bcnt.toNat < 3) :
      StepEffect c s ({ s with lineOut := lineBit o s.bitcnt, bitcnt := 0, bcnt := s.bcnt + 1, rsp := 0 })
  /-- R179. -/
  | paySumEnd (o : Octet) (h : s.phase = .txPck) (ho : (digest s.acc)[s.bcnt.toNat]? = some o) (hb : s.bitcnt = 7) (hn : s.bcnt.toNat = 3) :
      StepEffect c s ({ s with lineOut := lineBit o s.bitcnt, bitcnt := 0, bcnt := 0, phase := .txEnd, rsp := 0 })
  /-- R180. -/
  | released (h : s.phase = .txEnd) :
      StepEffect c s ({ s with phase := .idle, dir := false, rsp := 0 })

/-- Counting one octet, for the counts below the bounds of the segments. -/
theorem bcnt_succ_eq {b : BitVec 17} {n : Nat} (hb : b.toNat < 65540) (hn : n < 2 ^ 17) :
    b + 1 = BitVec.ofNat 17 n ↔ b.toNat + 1 = n := by
  rw [← BitVec.toNat_inj, BitVec.toNat_add, BitVec.toNat_ofNat, Nat.mod_eq_of_lt hn]
  simp
  omega

theorem bcnt_succ_toNat {b : BitVec 17} (hb : b.toNat < 65540) : (b + 1).toNat = b.toNat + 1 := by
  rw [BitVec.toNat_add]
  simp
  omega

theorem digest_index {a : BitVec 32} {k : Nat} {o : Octet} (h : (digest a)[k]? = some o) : k < 4 := by
  by_contra hk
  rw [Vector.getElem?_eq_none (by omega)] at h
  cases h

theorem record_index {m : MetaRecord} {k : Nat} {o : Octet} (h : m[k]? = some o) : k < 6 := by
  by_contra hk
  rw [Vector.getElem?_eq_none (by omega)] at h
  cases h

theorem rxSize_lt (s : State) : s.rxSize < 2 ^ 16 := (metaSize s.rxm).isLt

theorem bcnt_succ_ne {b : BitVec 17} {n : Nat} (hb : b.toNat < 65540) (hn : n < 2 ^ 17) (h : b.toNat + 1 ≠ n) :
    b + 1 ≠ BitVec.ofNat 17 n := fun e => h ((bcnt_succ_eq hb hn).1 e)

/-! The tests at the end of a segment (42_frame_tx.md R176 to R179). -/

theorem endTxMeta_of_ne {s : State} (h : s.bcnt ≠ 6) : endTxMeta s = s := if_neg h
theorem endTxMeta_of_eq {s : State} (h : s.bcnt = 6) : endTxMeta s = { s with phase := .txMck, bcnt := 0 } :=
  if_pos h
theorem endTxMck_of_ne {s : State} (h : s.bcnt ≠ 4) : endTxMck s = s := if_neg h
theorem endTxMck_of_eq {s : State} (h : s.bcnt = 4) :
    endTxMck s =
      { s with bcnt := 0, acc := 0, phase := if metaSize s.txm = 0 then .txPck else .txPay } := if_pos h
theorem endTxPay_of_ne {s : State} (h : s.bcnt.toNat ≠ (metaSize s.txm).toNat) : endTxPay s = s := if_neg h
theorem endTxPay_of_eq {s : State} (h : s.bcnt.toNat = (metaSize s.txm).toNat) :
    endTxPay s = { s with phase := .txPck, bcnt := 0 } := if_pos h
theorem endTxPck_of_ne {s : State} (h : s.bcnt ≠ 4) : endTxPck s = s := if_neg h
theorem endTxPck_of_eq {s : State} (h : s.bcnt = 4) : endTxPck s = { s with phase := .txEnd, bcnt := 0 } :=
  if_pos h

theorem driveBit_of_ne {s : State} (o : Octet) (f : State → State) (h : s.bitcnt ≠ 7) :
    s.driveBit o f = { s with lineOut := lineBit o s.bitcnt, bitcnt := s.bitcnt + 1 } := if_pos h

theorem driveBit_of_eq {s : State} (o : Octet) (f : State → State) (h : s.bitcnt = 7) :
    s.driveBit o f = f { s with lineOut := lineBit o s.bitcnt, bitcnt := 0, bcnt := s.bcnt + 1 } :=
  if_neg (not_not_intro h)

theorem absorbAtFirstBit_eq (s : State) (o : Octet) :
    s.absorbAtFirstBit o = { s with acc := s.accWith o } := by
  unfold State.absorbAtFirstBit State.accWith
  split <;> rfl

theorem accWith_of_eq {s : State} (o : Octet) (h : s.bitcnt = 7) : s.accWith o = s.acc :=
  if_neg (by rw [h]; decide)

/-- The eighth bit of an octet absorbs nothing. -/
theorem absorbAtFirstBit_of_eq {s : State} (o : Octet) (h : s.bitcnt = 7) : s.absorbAtFirstBit o = s := by
  rw [absorbAtFirstBit_eq, accWith_of_eq o h]

theorem octetUnit_of_ne {s : State} (u : Level) (h : s.bitcnt ≠ 7) :
    s.octetUnit u = .ok { s with shreg := shiftIn s.shreg u, bitcnt := s.bitcnt + 1 } := if_pos h

theorem octetUnit_header {s : State} (u : Level) (h : s.bitcnt = 7) (hp : s.phase = .rxHeader) :
    s.octetUnit u =
      State.headerOctet { s with shreg := shiftIn s.shreg u, bitcnt := 0 } (shiftIn s.shreg u) := by
  unfold State.octetUnit
  rw [if_neg (not_not_intro h), if_pos hp]

theorem octetUnit_payload {s : State} (u : Level) (h : s.bitcnt = 7) (hp : s.phase = .rxPayload) :
    s.octetUnit u =
      State.payloadOctet { s with shreg := shiftIn s.shreg u, bitcnt := 0 } (shiftIn s.shreg u) := by
  unfold State.octetUnit
  rw [if_neg (not_not_intro h), if_neg (by rw [hp]; decide)]

theorem execStep_rxSync {s : State} (h : s.phase = .rxSync) :
    execStep true s = finishStep (s.syncUnit s.lineIn) := by
  simp only [execStep, h, stepRx, if_true]

theorem execStep_octet {s : State} (h : s.phase = .rxHeader ∨ s.phase = .rxPayload) :
    execStep true s = finishStep (s.octetUnit s.lineIn) := by
  rcases h with h | h <;> simp [execStep, h, stepRx]

theorem syncUnit_of_lt {s : State} (u : Level) (h : s.idx.toNat < s.mbuf.length) :
    s.syncUnit u = .ok (if s.idx + 1 = s.plen then
      State.blockComplete { s with mbuf := s.mbuf.set s.idx.toNat u, idx := s.idx + 1 }
      else { s with mbuf := s.mbuf.set s.idx.toNat u, idx := s.idx + 1 }) := if_pos h

/-- The octet counted in a header. -/
theorem headerOctet_meta {s : State} (o : Octet) (h : s.bcnt.toNat < 6) :
    s.headerOctet o = .ok { s with
      hdr := s.hdr.setIfInBounds s.bcnt.toNat o, acc := s.acc + zext32 o, bcnt := s.bcnt + 1 } := by
  unfold State.headerOctet
  rw [if_pos h]
  exact congrArg Except.ok (if_neg (bcnt_succ_ne (b := s.bcnt) (n := 10) (by omega) (by decide) (by omega)))

theorem headerOctet_sum {s : State} (o : Octet) (h : 6 ≤ s.bcnt.toNat) (hn : s.bcnt.toNat < 9) :
    s.headerOctet o = .ok { s with
      rxck := s.rxck.setIfInBounds (s.bcnt.toNat - 6) o, bcnt := s.bcnt + 1 } := by
  unfold State.headerOctet
  rw [if_neg (by omega), if_pos (by omega)]
  exact congrArg Except.ok (if_neg (bcnt_succ_ne (b := s.bcnt) (n := 10) (by omega) (by decide) (by omega)))

theorem headerOctet_last {s : State} (o : Octet) (h : s.bcnt.toNat = 9) :
    s.headerOctet o = .ok (State.headerComplete { s with rxck := s.rxck.setIfInBounds 3 o, bcnt := 10 }) := by
  have e : s.bcnt + 1 = 10 := (bcnt_succ_eq (n := 10) (by omega) (by decide)).2 (by omega)
  unfold State.headerOctet
  rw [if_neg (by omega), if_pos (by omega)]
  refine congrArg Except.ok ?_
  unfold State.headerCounted
  dsimp only
  rw [e, h, if_pos rfl]

theorem payloadOctet_data {s : State} (o : Octet) (h : s.bcnt.toNat < s.rxSize) (hm : s.bcnt.toNat < s.params.maxPayload) :
    s.payloadOctet o = .ok { s with
      stage := Memory.write s.stage s.bcnt.toNat o, acc := s.acc + zext32 o, bcnt := s.bcnt + 1 } := by
  have := rxSize_lt s
  unfold State.payloadOctet
  rw [if_pos h, if_pos hm]
  refine congrArg Except.ok (if_neg ?_)
  show ¬(s.bcnt + 1).toNat = s.rxSize + 4
  rw [bcnt_succ_toNat (by omega)]
  omega

theorem payloadOctet_sum {s : State} (o : Octet) (h : s.rxSize ≤ s.bcnt.toNat) (hn : s.bcnt.toNat < s.rxSize + 3) :
    s.payloadOctet o = .ok { s with
      rxck := s.rxck.setIfInBounds (s.bcnt.toNat - s.rxSize) o, bcnt := s.bcnt + 1 } := by
  have := rxSize_lt s
  unfold State.payloadOctet
  rw [if_neg (by omega), if_pos (by omega)]
  refine congrArg Except.ok (if_neg ?_)
  show ¬(s.bcnt + 1).toNat = s.rxSize + 4
  rw [bcnt_succ_toNat (by omega)]
  omega

theorem payloadOctet_last {s : State} (o : Octet) (h : s.bcnt.toNat = s.rxSize + 3) :
    s.payloadOctet o = .ok (State.payloadComplete { s with rxck := s.rxck.setIfInBounds 3 o, bcnt := s.bcnt + 1 }) := by
  have := rxSize_lt s
  unfold State.payloadOctet
  rw [if_neg (by omega), if_pos (by omega), show s.bcnt.toNat - s.rxSize = 3 by omega]
  refine congrArg Except.ok (if_pos ?_)
  show (s.bcnt + 1).toNat = s.rxSize + 4
  rw [bcnt_succ_toNat (by omega)]
  omega

/-- Every effect is what the meaning answers. -/
theorem execStep_of_effect {c : Level} {s t : State} (h : StepEffect c s t) : execStep c s = .next t := by
  cases h with
  | refused h => simp only [execStep, h]
  | stoppedSync h hc =>
    subst hc
    simp [execStep, h, stepRx, finishStep, State.cancelRead, State.failRead, State.respond]
  | stopped h hc =>
    subst hc
    rcases h with h | h <;>
      simp [execStep, h, stepRx, finishStep, State.cancelRead, State.failRead, State.respond]
  | sampled h hc hi hp =>
    subst hc
    rw [execStep_rxSync h, syncUnit_of_lt _ hi, if_neg hp]; rfl
  | mismatched h hc hi hp hm =>
    subst hc
    rw [execStep_rxSync h, syncUnit_of_lt _ hi, if_pos hp, State.blockComplete, if_neg (by simpa [State.preambleMatches] using hm)]
    rfl
  | matched h hc hi hp hm =>
    subst hc
    rw [execStep_rxSync h, syncUnit_of_lt _ hi, if_pos hp, State.blockComplete, if_pos (by simpa [State.preambleMatches] using hm)]
    rfl
  | shifted h hc hb => subst hc; rw [execStep_octet h, octetUnit_of_ne _ hb]; rfl
  | headerOctet h hc hb hn =>
    subst hc; rw [execStep_octet (.inl h), octetUnit_header _ hb h, headerOctet_meta _ (by exact hn)]; rfl
  | headerSumOctet h hc hb hl hn =>
    subst hc; rw [execStep_octet (.inl h), octetUnit_header _ hb h, headerOctet_sum _ (by exact hl) (by exact hn)]; rfl
  | headerCorrupt h hc hb hn hk =>
    subst hc
    rw [execStep_octet (.inl h), octetUnit_header _ hb h, headerOctet_last _ (by exact hn), State.headerComplete, if_pos hk]
    rfl
  | headerOversize h hc hb hn hk hm =>
    subst hc
    rw [execStep_octet (.inl h), octetUnit_header _ hb h, headerOctet_last _ (by exact hn), State.headerComplete,
      if_neg (not_not_intro hk), State.headerVerified, if_pos hm]
    rfl
  | headerVerified h hc hb hn hk hm =>
    subst hc
    rw [execStep_octet (.inl h), octetUnit_header _ hb h, headerOctet_last _ (by exact hn), State.headerComplete,
      if_neg (not_not_intro hk), State.headerVerified, if_neg (Nat.not_lt.2 hm)]
    rfl
  | payloadOctet h hc hb hn hm =>
    subst hc; rw [execStep_octet (.inr h), octetUnit_payload _ hb h, payloadOctet_data _ (by exact hn) (by exact hm)]; rfl
  | payloadSumOctet h hc hb hl hn =>
    subst hc; rw [execStep_octet (.inr h), octetUnit_payload _ hb h, payloadOctet_sum _ (by exact hl) (by exact hn)]; rfl
  | payloadCorrupt h hc hb hn hk =>
    subst hc
    rw [execStep_octet (.inr h), octetUnit_payload _ hb h, payloadOctet_last _ (by exact hn), State.payloadComplete, if_pos hk]
    rfl
  | payloadVerified h hc hb hn hk =>
    subst hc
    rw [execStep_octet (.inr h), octetUnit_payload _ hb h, payloadOctet_last _ (by exact hn), State.payloadComplete,
      if_neg (not_not_intro hk)]
    rfl
  | preambleElement u h hu hp => simp only [execStep, h, stepTxPre, hu, if_neg hp]; rfl
  | preambleEnd u h hu hp => simp only [execStep, h, stepTxPre, hu, if_pos hp]; rfl
  | metaBit o h ho hb =>
    simp only [execStep, h, stepTxMeta, ho, absorbAtFirstBit_eq]
    rw [driveBit_of_ne _ _ (by exact hb), finishStep]; simp only [State.respond]
  | metaOctet o h ho hb hn =>
    simp only [execStep, h, stepTxMeta, ho, absorbAtFirstBit_of_eq _ hb, driveBit_of_eq _ _ hb]
    rw [endTxMeta_of_ne (by exact bcnt_succ_ne (b := s.bcnt) (n := 6) (by omega) (by decide) (by omega)), finishStep]
    simp only [State.respond]
  | metaEnd o h ho hb hn =>
    simp only [execStep, h, stepTxMeta, ho, absorbAtFirstBit_of_eq _ hb, driveBit_of_eq _ _ hb]
    rw [endTxMeta_of_eq (by exact (bcnt_succ_eq (b := s.bcnt) (n := 6) (by omega) (by decide)).2 (by omega)), finishStep]
    simp only [State.respond]
  | metaSumBit o h ho hb =>
    simp only [execStep, h, stepTxMck, ho, driveBit_of_ne _ _ hb, finishStep, State.respond]
  | metaSumOctet o h ho hb hn =>
    simp only [execStep, h, stepTxMck, ho, driveBit_of_eq _ _ hb]
    rw [endTxMck_of_ne (by exact bcnt_succ_ne (b := s.bcnt) (n := 4) (by omega) (by decide) (by omega)), finishStep]
    simp only [State.respond]
  | metaSumEnd o h ho hb hn =>
    simp only [execStep, h, stepTxMck, ho, driveBit_of_eq _ _ hb]
    rw [endTxMck_of_eq (by exact (bcnt_succ_eq (b := s.bcnt) (n := 4) (by omega) (by decide)).2 (by omega)), finishStep]
    simp only [State.respond]
  | payBit h ho hb =>
    simp only [execStep, h, stepTxPay, if_pos ho, absorbAtFirstBit_eq]
    rw [driveBit_of_ne _ _ (by exact hb), finishStep]; simp only [State.respond]
  | payOctet h ho hb hn =>
    simp only [execStep, h, stepTxPay, if_pos ho, absorbAtFirstBit_of_eq _ hb, driveBit_of_eq _ _ hb]
    rw [endTxPay_of_ne (by exact hn), finishStep]; simp only [State.respond]
  | payEnd h ho hb hn =>
    simp only [execStep, h, stepTxPay, if_pos ho, absorbAtFirstBit_of_eq _ hb, driveBit_of_eq _ _ hb]
    rw [endTxPay_of_eq (by exact hn), finishStep]; simp only [State.respond]
  | paySumBit o h ho hb =>
    simp only [execStep, h, stepTxPck, ho, driveBit_of_ne _ _ hb, finishStep, State.respond]
  | paySumOctet o h ho hb hn =>
    simp only [execStep, h, stepTxPck, ho, driveBit_of_eq _ _ hb]
    rw [endTxPck_of_ne (by exact bcnt_succ_ne (b := s.bcnt) (n := 4) (by omega) (by decide) (by omega)), finishStep]
    simp only [State.respond]
  | paySumEnd o h ho hb hn =>
    simp only [execStep, h, stepTxPck, ho, driveBit_of_eq _ _ hb]
    rw [endTxPck_of_eq (by exact (bcnt_succ_eq (b := s.bcnt) (n := 4) (by omega) (by decide)).2 (by omega)), finishStep]
    simp only [State.respond]
  | released h => simp only [execStep, h, stepTxEnd, finishStep, State.respond]

/-- In every state the meaning answers an effect, or stops at a position outside the arrays. -/
theorem execStep_effect_or_fault (c : Level) (s : State) :
    (∃ t, StepEffect c s t) ∨ ∃ f, execStep c s = .fault f := by
  have rx (hc : c = true) (h : s.phase = .rxHeader ∨ s.phase = .rxPayload) (hb : s.bitcnt ≠ 7) :
      ∃ t, StepEffect c s t := ⟨_, .shifted h hc hb⟩
  cases h : s.phase with
  | idle => exact .inl ⟨_, .refused h⟩
  | rxSync =>
    cases c with
    | false => exact .inl ⟨_, .stoppedSync h rfl⟩
    | true =>
      by_cases hi : s.idx.toNat < s.mbuf.length
      · refine .inl ?_
        by_cases hp : s.idx + 1 = s.plen
        · by_cases hm : (s.mbuf.set s.idx.toNat s.lineIn).take s.plen.toNat = s.pat.take s.plen.toNat
          · exact ⟨_, .matched h rfl hi hp hm⟩
          · exact ⟨_, .mismatched h rfl hi hp hm⟩
        · exact ⟨_, .sampled h rfl hi hp⟩
      · exact .inr ⟨_, by rw [execStep_rxSync h, State.syncUnit, if_neg hi]; rfl⟩
  | rxHeader =>
    cases c with
    | false => exact .inl ⟨_, .stopped (.inl h) rfl⟩
    | true =>
      by_cases hb : s.bitcnt = 7
      · rcases Nat.lt_or_ge s.bcnt.toNat 6 with h6 | h6
        · exact .inl ⟨_, .headerOctet h rfl hb h6⟩
        · rcases Nat.lt_or_ge s.bcnt.toNat 9 with h9 | h9
          · exact .inl ⟨_, .headerSumOctet h rfl hb h6 h9⟩
          · by_cases h9' : s.bcnt.toNat = 9
            · refine .inl ?_
              by_cases hk : s.rxck.setIfInBounds 3 s.octetIn = digest s.acc
              · rcases Nat.lt_or_ge s.params.maxPayload (metaSize s.hdr).toNat with hm | hm
                · exact ⟨_, .headerOversize h rfl hb h9' hk hm⟩
                · exact ⟨_, .headerVerified h rfl hb h9' hk hm⟩
              · exact ⟨_, .headerCorrupt h rfl hb h9' hk⟩
            · refine .inr ⟨.outsideArray .rxck (s.bcnt.toNat - 6), ?_⟩
              rw [execStep_octet (.inl h), octetUnit_header _ hb h, State.headerOctet, if_neg (by dsimp only; omega),
                if_neg (by dsimp only; omega)]
              rfl
      · exact .inl (rx rfl (.inl h) hb)
  | rxPayload =>
    cases c with
    | false => exact .inl ⟨_, .stopped (.inr h) rfl⟩
    | true =>
      by_cases hb : s.bitcnt = 7
      · rcases Nat.lt_or_ge s.bcnt.toNat s.rxSize with hn | hn
        · by_cases hm : s.bcnt.toNat < s.params.maxPayload
          · exact .inl ⟨_, .payloadOctet h rfl hb hn hm⟩
          · refine .inr ⟨.outsideArray .stage s.bcnt.toNat, ?_⟩
            rw [execStep_octet (.inr h), octetUnit_payload _ hb h, State.payloadOctet, if_pos (by exact hn),
              if_neg (by exact hm)]
            rfl
        · rcases Nat.lt_or_ge s.bcnt.toNat (s.rxSize + 3) with h3 | h3
          · exact .inl ⟨_, .payloadSumOctet h rfl hb hn h3⟩
          · by_cases h3' : s.bcnt.toNat = s.rxSize + 3
            · refine .inl ?_
              by_cases hk : s.rxck.setIfInBounds 3 s.octetIn = digest s.acc
              · exact ⟨_, .payloadVerified h rfl hb h3' hk⟩
              · exact ⟨_, .payloadCorrupt h rfl hb h3' hk⟩
            · refine .inr ⟨.outsideArray .rxck (s.bcnt.toNat - s.rxSize), ?_⟩
              rw [execStep_octet (.inr h), octetUnit_payload _ hb h, State.payloadOctet,
                if_neg (by exact Nat.not_lt.2 hn), if_neg (by exact (show ¬s.bcnt.toNat - s.rxSize < 4 by omega))]
              rfl
      · exact .inl (rx rfl (.inr h) hb)
  | txPre =>
    cases hu : s.pat[s.idx.toNat]? with
    | none => exact .inr ⟨_, by simp only [execStep, h, stepTxPre, hu]; rfl⟩
    | some u =>
      refine .inl ?_
      by_cases hp : s.idx + 1 = s.plen
      · exact ⟨_, .preambleEnd u h hu hp⟩
      · exact ⟨_, .preambleElement u h hu hp⟩
  | txMeta =>
    cases ho : s.txm[s.bcnt.toNat]? with
    | none => exact .inr ⟨_, by simp only [execStep, h, stepTxMeta, ho]; rfl⟩
    | some o =>
      refine .inl ?_
      have := record_index ho
      by_cases hb : s.bitcnt = 7
      · rcases Nat.lt_or_ge s.bcnt.toNat 5 with hn | hn
        · exact ⟨_, .metaOctet o h ho hb hn⟩
        · exact ⟨_, .metaEnd o h ho hb (by omega)⟩
      · exact ⟨_, .metaBit o h ho hb⟩
  | txMck =>
    cases ho : (digest s.acc)[s.bcnt.toNat]? with
    | none => exact .inr ⟨_, by simp only [execStep, h, stepTxMck, ho]; rfl⟩
    | some o =>
      refine .inl ?_
      have := digest_index ho
      by_cases hb : s.bitcnt = 7
      · rcases Nat.lt_or_ge s.bcnt.toNat 3 with hn | hn
        · exact ⟨_, .metaSumOctet o h ho hb hn⟩
        · exact ⟨_, .metaSumEnd o h ho hb (by omega)⟩
      · exact ⟨_, .metaSumBit o h ho hb⟩
  | txPay =>
    by_cases ho : s.bcnt.toNat < s.params.maxPayload
    · refine .inl ?_
      by_cases hb : s.bitcnt = 7
      · by_cases hn : (s.bcnt + 1).toNat = (metaSize s.txm).toNat
        · exact ⟨_, .payEnd h ho hb hn⟩
        · exact ⟨_, .payOctet h ho hb hn⟩
      · exact ⟨_, .payBit h ho hb⟩
    · exact .inr ⟨_, by simp only [execStep, h, stepTxPay, if_neg ho]; rfl⟩
  | txPck =>
    cases ho : (digest s.acc)[s.bcnt.toNat]? with
    | none => exact .inr ⟨_, by simp only [execStep, h, stepTxPck, ho]; rfl⟩
    | some o =>
      refine .inl ?_
      have := digest_index ho
      by_cases hb : s.bitcnt = 7
      · rcases Nat.lt_or_ge s.bcnt.toNat 3 with hn | hn
        · exact ⟨_, .paySumOctet o h ho hb hn⟩
        · exact ⟨_, .paySumEnd o h ho hb (by omega)⟩
      · exact ⟨_, .paySumBit o h ho hb⟩
  | txEnd => exact .inl ⟨_, .released h⟩

/-- What a `STEP` does, said once: `cases` on the right side for an invariant, one constructor of it
for a completion. -/
theorem execStep_next_iff {c : Level} {s t : State} : execStep c s = .next t ↔ StepEffect c s t := by
  refine ⟨fun h => ?_, execStep_of_effect⟩
  rcases execStep_effect_or_fault c s with ⟨u, hu⟩ | ⟨f, hf⟩
  · rw [execStep_of_effect hu] at h
    cases h
    exact hu
  · rw [hf] at h
    cases h

end Sys2Proof.Machine
end

