-- ==== Sys2Proof/Laws/Memory.lean ====
section
/-! SUPPORT. The laws of the octet buffers: read after write, other cells kept, and the canonical form kept by every operation (20_memory.md R60, R62, R80). -/

namespace Sys2Proof.Machine

@[simp] theorem Memory.get?_nil (a : Nat) : Memory.get? [] a = none := rfl

theorem Memory.get?_cons (b : Nat) (v : Octet) (m : Memory) (a : Nat) :
    Memory.get? ((b, v) :: m) a = if b = a then some v else Memory.get? m a := rfl

/-- A read after a write to the same cell gives the octet written. -/
@[simp] theorem Memory.get?_write_self (m : Memory) (a : Nat) (v : Octet) :
    Memory.get? (Memory.write m a v) a = some v := by
  induction m with
  | nil => simp [Memory.write, Memory.get?_cons]
  | cons c m ih =>
    obtain ⟨b, w⟩ := c
    simp only [Memory.write]
    split
    · simp [Memory.get?_cons]
    · split
      · simp [Memory.get?_cons]
      · simp [Memory.get?_cons, ih, show b ≠ a by omega]

/-- A write leaves every other cell alone. -/
theorem Memory.get?_write_of_ne (m : Memory) {a b : Nat} (v : Octet) (h : b ≠ a) :
    Memory.get? (Memory.write m a v) b = Memory.get? m b := by
  induction m with
  | nil => simp [Memory.write, Memory.get?_cons, Ne.symm h]
  | cons c m ih =>
    obtain ⟨k, w⟩ := c
    simp only [Memory.write]
    split
    · simp [Memory.get?_cons, Ne.symm h]
    · split
      · next hk => subst hk; simp [Memory.get?_cons, Ne.symm h]
      · simp only [Memory.get?_cons, ih]

/-- The cells after a write are the one written and cells that were there. -/
theorem Memory.mem_write {m : Memory} {a : Nat} {v : Octet} {c : Host.Cell}
    (h : c ∈ Memory.write m a v) : c = (a, v) ∨ c ∈ m := by
  induction m with
  | nil => simpa [Memory.write] using h
  | cons d m ih =>
    obtain ⟨k, w⟩ := d
    simp only [Memory.write] at h
    split at h
    · simpa using h
    · split at h
      · simp only [List.mem_cons] at h ⊢; tauto
      · simp only [List.mem_cons] at h ⊢
        rcases h with h | h
        · exact .inr (.inl h)
        · exact (ih h).imp id .inr

/-- A write keeps the canonical form. -/
theorem Memory.write_wf {m : Memory} (a : Nat) (v : Octet) (h : Memory.wf m) :
    Memory.wf (Memory.write m a v) := by
  induction m with
  | nil => simp [Memory.write, Memory.wf]
  | cons d m ih =>
    obtain ⟨k, w⟩ := d
    simp only [Memory.wf, List.pairwise_cons] at h
    simp only [Memory.write]
    split
    · next hk =>
      simp only [Memory.wf, List.pairwise_cons, List.mem_cons]
      refine ⟨?_, h.1, h.2⟩
      rintro c (rfl | hc)
      · exact hk
      · exact hk.trans (h.1 c hc)
    · split
      · next hk => subst hk; simpa only [Memory.wf, List.pairwise_cons] using h
      · simp only [Memory.wf, List.pairwise_cons]
        refine ⟨fun c hc => ?_, ih h.2⟩
        rcases Memory.mem_write hc with rfl | hc
        · simp only; omega
        · exact h.1 c hc

/-- A write below the bound keeps a buffer within its bounds. -/
theorem Memory.write_inBounds {m : Memory} {n a : Nat} (v : Octet) (h : Memory.inBounds m n) (ha : a < n) :
    Memory.inBounds (Memory.write m a v) n :=
  ⟨Memory.write_wf a v h.1, fun c hc => (Memory.mem_write hc).elim (fun e => e ▸ ha) (h.2 c)⟩

/-- A write removes no cell. -/
theorem Memory.isSome_get?_write {m : Memory} {a b : Nat} (v : Octet) (h : (Memory.get? m b).isSome) :
    (Memory.get? (Memory.write m a v) b).isSome := by
  by_cases hb : b = a
  · subst hb; simp
  · rwa [Memory.get?_write_of_ne m v hb]

theorem Memory.get?_append (m k : Memory) (a : Nat) :
    Memory.get? (m ++ k) a = (Memory.get? m a).or (Memory.get? k a) := by
  induction m with
  | nil => simp
  | cons c m ih =>
    obtain ⟨b, v⟩ := c
    simp only [List.cons_append, Memory.get?_cons, ih]
    split <;> simp

theorem Memory.get?_map_range (src : Nat → Octet) (n a : Nat) :
    Memory.get? ((List.range n).map fun i => (i, src i)) a = if a < n then some (src a) else none := by
  induction n with
  | zero => simp
  | succ n ih =>
    rw [List.range_succ, List.map_append, Memory.get?_append, ih]
    simp only [List.map_cons, List.map_nil, Memory.get?_cons, Memory.get?_nil]
    by_cases h : a < n
    · simp [h, Nat.lt_succ_of_lt h]
    · by_cases e : n = a
      · subst e; simp
      · simp [h, e, show ¬ a < n + 1 by omega]

theorem Memory.get?_filter (m : Memory) {p : Host.Cell → Bool} {a : Nat} (h : ∀ v, p (a, v) = true) :
    Memory.get? (m.filter p) a = Memory.get? m a := by
  induction m with
  | nil => rfl
  | cons c m ih =>
    obtain ⟨b, v⟩ := c
    by_cases e : b = a
    · subst e; simp [h v, Memory.get?_cons]
    · rw [List.filter_cons]
      split <;> simp [Memory.get?_cons, e, ih]

/-- Publication writes cells `0` to `n - 1` (43_frame_rx.md R211). -/
theorem Memory.get?_adopt_of_lt (m : Memory) {n a : Nat} (src : Nat → Octet) (h : a < n) :
    Memory.get? (Memory.adopt m n src) a = some (src a) := by
  simp [Memory.adopt, Memory.get?_append, Memory.get?_map_range, h]

/-- Publication leaves the cells from `n` on alone (43_frame_rx.md R211). -/
theorem Memory.get?_adopt_of_le (m : Memory) {n a : Nat} (src : Nat → Octet) (h : n ≤ a) :
    Memory.get? (Memory.adopt m n src) a = Memory.get? m a := by
  have hf : Memory.get? (m.filter fun c => decide (n ≤ c.1)) a = Memory.get? m a :=
    Memory.get?_filter m fun v => by simpa using h
  simp [Memory.adopt, Memory.get?_append, Memory.get?_map_range, hf, show ¬ a < n by omega]

/-- Publication keeps a buffer within its bounds. -/
theorem Memory.adopt_inBounds {m : Memory} {n b : Nat} (src : Nat → Octet) (h : Memory.inBounds m b) (hn : n ≤ b) :
    Memory.inBounds (Memory.adopt m n src) b := by
  refine ⟨?_, fun c hc => ?_⟩
  · refine List.pairwise_append.2 ⟨?_, h.1.filter _, ?_⟩
    · simpa [List.pairwise_map] using List.pairwise_lt_range
    · intro c hc d hd
      simp only [List.mem_map, List.mem_range, List.mem_filter, decide_eq_true_eq] at hc hd
      obtain ⟨i, hi, rfl⟩ := hc
      exact lt_of_lt_of_le hi hd.2
  · simp only [Memory.adopt, List.mem_append, List.mem_map, List.mem_range, List.mem_filter] at hc
    rcases hc with ⟨i, hi, rfl⟩ | ⟨hc, -⟩
    · exact lt_of_lt_of_le hi hn
    · exact h.2 c hc

/-- The memory of `State.reset` is in canonical form. -/
theorem reset_memory_wf (b : Buffer) : Memory.wf (State.reset.buffer b) := by
  cases b <;> exact List.Pairwise.nil

/-- A written cell reads as the octet written (20_memory.md R80). -/
theorem State.cell_of_get? {s : State} {b : Buffer} {i : Nat} {v : Octet}
    (h : Memory.get? (s.buffer b) i = some v) : s.cell b i = v := by
  simp [State.cell, h]

/-- An unwritten cell reads as its free octet (93_implementation_defined.md U1; log 5). -/
theorem State.cell_of_unwritten {s : State} {b : Buffer} {i : Nat}
    (h : Memory.get? (s.buffer b) i = none) : s.cell b i = Config.unspecifiedOctet s.resets b i := by
  simp [State.cell, h]

end Sys2Proof.Machine
end

