-- ==== Sys2Proof/Laws/Frame.lean ====
section
/-! SUPPORT. Runs cut in two: commands in a row, driven units, sampled units and loopback units; and the octets of a buffer one by one. -/

namespace Sys2Proof.Machine

theorem runCommands_append (is js : List Instr) (s : State) :
    runCommands (is ++ js) s = (runCommands is s).bind (runCommands js) := by
  induction is generalizing s with
  | nil => rfl
  | cons i is ih =>
    simp only [List.cons_append, runCommands]
    cases nextState (exec i s) <;> simp [ih]

theorem sampleUnits_append (us vs : List Level) (s : State) :
    sampleUnits (us ++ vs) s = (sampleUnits us s).bind (sampleUnits vs) := by
  induction us generalizing s with
  | nil => rfl
  | cons u us ih =>
    simp only [List.cons_append, sampleUnits]
    cases nextState (exec (.step true) { s with lineIn := u }) <;> simp [ih]

theorem driveUnits_append (cs ds : List Level) (s : State) :
    driveUnits (cs ++ ds) s =
      (driveUnits cs s).bind fun p => (driveUnits ds p.2).map fun q => (p.1 ++ q.1, q.2) := by
  induction cs generalizing s with
  | nil => simp [driveUnits]
  | cons c cs ih =>
    simp only [List.cons_append, driveUnits]
    cases nextState (exec (.step c) s) with
    | none => rfl
    | some t =>
      simp only [Option.bind_some, ih]
      cases driveUnits cs t with
      | none => rfl
      | some p =>
        simp only [Option.bind_some, Option.map_some]
        cases driveUnits ds p.2 <;> rfl

theorem loopback_add (m n : Nat) (a b : State) :
    loopback (m + n) a b = (loopback m a b).bind fun p => loopback n p.1 p.2 := by
  induction m generalizing a b with
  | zero => simp [loopback]
  | succ m ih =>
    rw [Nat.succ_add, loopback, loopback]
    cases loopbackUnit a b <;> simp [ih]

@[simp] theorem State.cells_zero (s : State) (b : Buffer) : s.cells b 0 = [] := rfl

/-- One more octet of a buffer. -/
theorem State.cells_succ (s : State) (b : Buffer) (n : Nat) : s.cells b (n + 1) = s.cells b n ++ [s.cell b n] := by
  simp [State.cells, List.range_succ]

@[simp] theorem State.cells_length (s : State) (b : Buffer) (n : Nat) : (s.cells b n).length = n := by
  simp [State.cells]

/-- The octets of a buffer depend on its cells alone. -/
theorem State.cells_congr {s t : State} {b : Buffer} {n : Nat} (h : ∀ i, i < n → t.cell b i = s.cell b i) :
    t.cells b n = s.cells b n :=
  List.map_congr_left fun i hi => h i (List.mem_range.1 hi)

/-- A record with its next octet written (43_frame_rx.md R205). -/
theorem take_setIfInBounds_succ (m : MetaRecord) {k : Nat} (o : Octet) (h : k < 6) :
    (m.setIfInBounds k o).toList.take (k + 1) = m.toList.take k ++ [o] := by
  have e : (m.setIfInBounds k o).toList = m.toList.set k o := by simp [Vector.toList]
  rw [e, List.take_add_one, List.take_set_of_le (le_refl _)]
  simp [h]

end Sys2Proof.Machine
end

