-- ==== Sys2Proof/Laws/PerInstr.lean ====
section
/-! SUPPORT. The family RowMatch: the encoding of each command has the fixed bits of its row of the opcode map (30_encoding.md R94). -/

namespace Sys2Proof.Laws.RowMatch

/-- The word of `i` is covered by the row of `i`, whatever the operands. -/
def Statement (i : Instr) : Prop :=
  ∃ r, opcodeTable[i.rowIndex]? = some r ∧ r.covers (encode i) = true

theorem covers_of_eq {w p m : CmdWord} {n : String} (h : w &&& m = p) : (OpRow.mk n p m).covers w = true := by
  simp [OpRow.covers, h]

/-- Masking a concatenation masks its parts. -/
theorem append_and_append {w v : Nat} (a b : BitVec w) (c d : BitVec v) :
    (a ++ c) &&& (b ++ d) = (a &&& b) ++ (c &&& d) := by
  ext i hi
  simp only [BitVec.getElem_and, BitVec.getElem_append]
  split <;> rfl

/-- Masking the word of fields with a mask of fields. -/
theorem mask_wordOf (op a : BitVec 4) (d : Octet) (m n : BitVec 4) (k : Octet) :
    wordOf op a d &&& wordOf m n k = wordOf (op &&& m) (a &&& n) (d &&& k) :=
  (append_and_append (op ++ a) (m ++ n) d k).trans (congrArg (· ++ (d &&& k)) (append_and_append op m a n))

theorem nop : Statement .nop := ⟨_, rfl, by decide⟩
theorem errclr : Statement .errclr := ⟨_, rfl, by decide⟩
theorem ckclr : Statement .ckclr := ⟨_, rfl, by decide⟩
theorem ckadd (d : Octet) : Statement (.ckadd d) :=
  ⟨_, rfl, covers_of_eq ((mask_wordOf 2 0 d 15 15 0).trans (by simp [wordOf]))⟩
theorem ckrd (k : Fin 4) : Statement (.ckrd k) := ⟨_, rfl, by revert k; decide⟩
theorem plen (n : Nat) : Statement (.plen n) :=
  ⟨_, rfl, covers_of_eq ((mask_wordOf 4 0 (BitVec.ofNat 8 n) 15 15 0).trans (by simp [wordOf]))⟩
theorem pset (i : Nat) (b : Level) : Statement (.pset i b) :=
  ⟨_, rfl, covers_of_eq ((mask_wordOf 5 (0#3 ++ BitVec.ofBool b) (BitVec.ofNat 8 i) 15 14 0).trans
    (by cases b <;> simp [wordOf]))⟩
theorem mset (j : Nat) (d : Octet) : Statement (.mset j d) :=
  ⟨_, rfl, covers_of_eq ((mask_wordOf 6 (BitVec.ofNat 4 j) d 15 0 0).trans (by simp [wordOf]))⟩
theorem mrd (j : Nat) : Statement (.mrd j) :=
  ⟨_, rfl, covers_of_eq ((mask_wordOf 7 (BitVec.ofNat 4 j) 0 15 0 255).trans (by simp [wordOf]))⟩
theorem ptr (h : Level) (d : Octet) : Statement (.ptr h d) :=
  ⟨_, rfl, covers_of_eq ((mask_wordOf 8 (0#3 ++ BitVec.ofBool h) d 15 14 0).trans
    (by cases h <;> simp [wordOf]))⟩
theorem txwr (d : Octet) : Statement (.txwr d) :=
  ⟨_, rfl, covers_of_eq ((mask_wordOf 9 0 d 15 15 0).trans (by simp [wordOf]))⟩
theorem rxrd : Statement .rxrd := ⟨_, rfl, by decide⟩
theorem rdsr (r : Nat) : Statement (.rdsr r) :=
  ⟨_, rfl, covers_of_eq ((mask_wordOf 11 (BitVec.ofNat 4 r) 0 15 0 255).trans (by simp [wordOf]))⟩
theorem poll : Statement .poll := ⟨_, rfl, by decide⟩
theorem send : Statement .send := ⟨_, rfl, by decide⟩
theorem step (c : Level) : Statement (.step c) := ⟨_, rfl, by revert c; decide⟩

end Sys2Proof.Laws.RowMatch
end

