-- ==== Sys2Proof/Machine/Script.lean ====
section
/-! DEFINITION. The pseudo-commands of 30_encoding.md R101, each the list of commands it expands to. -/

namespace Sys2Proof.Machine

/-- A pseudo-command (R101). -/
inductive Pseudo where
  | cksum (octets : List Octet)
  | pre (elements : List Level)
  | metadata (size id timing : BitVec 16)
  | setptr (v : BitVec 16)
  | load (octets : List Octet)
  | dump (n : Nat)
  | stepn (n : Nat)
  | cancel
  deriving DecidableEq, Repr

/-- `SETPTR v`. -/
def setptrScript (v : BitVec 16) : List Instr := [.ptr false (lowOctet v), .ptr true (highOctet v)]

/-- `PSET 0, e0; PSET 1, e1; ...`, from index `i` on. -/
def psetScript : Nat → List Level → List Instr
  | _, [] => []
  | i, e :: es => .pset i e :: psetScript (i + 1) es

/-- The expansion of a pseudo-command, and nothing else (R101). -/
def Pseudo.expand : Pseudo → List Instr
  | .cksum octets => .ckclr :: octets.map .ckadd ++ [.ckrd 0, .ckrd 1, .ckrd 2, .ckrd 3]
  | .pre elements => .plen elements.length :: psetScript 0 elements
  | .metadata size id timing =>
    [.mset 0 (lowOctet size), .mset 1 (highOctet size), .mset 2 (lowOctet id), .mset 3 (highOctet id),
     .mset 4 (lowOctet timing), .mset 5 (highOctet timing)]
  | .setptr v => setptrScript v
  | .load octets => setptrScript 0 ++ octets.map .txwr
  | .dump n => setptrScript 0 ++ List.replicate n .rxrd
  | .stepn n => List.replicate n (.step true)
  | .cancel => [.step false]

end Sys2Proof.Machine
end

