-- ==== Sys2Proof/Tests/Slice0.lean ====
section
/-! SUPPORT. The model's own tests: words decoded, ill-formed terms refused, single steps with the values of 95_test_vectors.md, and for every statement that has hypotheses a state and operands that meet them. -/

namespace Sys2Proof.Tests

open Sys2Proof Sys2Proof.Machine Sys2Proof.Claims

/-! ## WellFormed: one ill-formed term for each check (widths of 30_encoding.md R93) -/

theorem test_plen_operand_too_wide : (Instr.plen 256).wellFormed = false := by decide
theorem test_pset_operand_too_wide : (Instr.pset 256 true).wellFormed = false := by decide
theorem test_mset_operand_too_wide : (Instr.mset 16 0).wellFormed = false := by decide
theorem test_mrd_operand_too_wide : (Instr.mrd 16).wellFormed = false := by decide
theorem test_rdsr_operand_too_wide : (Instr.rdsr 16).wellFormed = false := by decide

/-! ## Decode: words of V-ENC-1 (and of V-TX-1 and P1 where V-ENC-1 has none) -/

theorem test_decode_nop : decode 0b0000000000000000 = .ok .nop := by decide
theorem test_decode_errclr : decode 0b0000000100000000 = .ok .errclr := by decide
theorem test_decode_ckclr : decode 0b0001000000000000 = .ok .ckclr := by decide
theorem test_decode_ckadd : decode 0b0010000011111111 = .ok (.ckadd 0xFF) := by decide
theorem test_decode_ckrd : decode 0b0011000000000011 = .ok (.ckrd 3) := by decide
theorem test_decode_plen : decode 0b0100000000100001 = .ok (.plen 33) := by decide
theorem test_decode_pset : decode 0b0101000100100000 = .ok (.pset 32 true) := by decide
theorem test_decode_mset : decode 0b0110010111111111 = .ok (.mset 5 0xFF) := by decide
theorem test_decode_mrd : decode 0b0111010100000000 = .ok (.mrd 5) := by decide
theorem test_decode_ptr : decode 0b1000000111111111 = .ok (.ptr true 0xFF) := by decide
theorem test_decode_txwr : decode 0b1001000010101011 = .ok (.txwr 0xAB) := by decide
theorem test_decode_rxrd : decode 0b1010000000000000 = .ok .rxrd := by decide
theorem test_decode_rdsr : decode 0b1011100000000000 = .ok (.rdsr 8) := by decide
theorem test_decode_poll : decode 0b1100000000000000 = .ok .poll := by decide
theorem test_decode_send : decode 0b1101000000000000 = .ok .send := by decide
theorem test_decode_step : decode 0b1110000000000001 = .ok (.step true) := by decide

/-- The illegal words of V-ENC-1. -/
theorem test_decode_illegal :
    ([0x0001, 0x0200, 0x1001, 0x2100, 0x3004, 0x5200, 0x7501, 0x8200, 0x9100, 0xA001, 0xB001, 0xC100, 0xE002,
      0xF000, 0xFFFF] : List CmdWord).map (fun w => (decode w).toOption) = List.replicate 15 none := by decide

/-- The table word and the word presented for it run as the first command after reset. -/
theorem test_table_word :
    decodeTableWord 16 0xB900 = some (.rdsr 9) ∧ decodeTableWord 16 0xF000 = none ∧
      (nextState (step (State.reset.withFetchWord 16 0x4020))).map (·.plen) = some 32 := by decide

/-! ## Single steps: expected values from 95_test_vectors.md -/

/-- `PRE 1, 0, 1; META 3, 0x002A, 5; LOAD 7, 9, 2` done (V-CFG-1 to V-CFG-3). -/
def scenario : State :=
  { State.reset with
    plen := 3
    pat := true :: false :: true :: List.replicate 29 false
    txm := #v[3, 0, 0x2A, 0, 5, 0]
    txbuf := [(0, 7), (1, 9), (2, 2)]
    ptr := 3 }

/-- V-TX-1 before the `k`-th `STEP` for a `k` of the segment `p`. -/
def sending (p : Phase) (acc : BitVec 32) (bcnt : BitVec 17) (bitcnt : BitVec 3) : State :=
  { scenario with phase := p, dir := true, acc := acc, bcnt := bcnt, bitcnt := bitcnt }

/-- V-RX-1 in the phase `p`, configured with `PRE 1, 0, 1`. -/
def reading (p : Phase) (acc : BitVec 32) (bcnt : BitVec 17) (bitcnt : BitVec 3) (shreg : Octet) (u : Level) : State :=
  { scenario with
    phase := p, acc := acc, bcnt := bcnt, bitcnt := bitcnt, shreg := shreg, lineIn := u
    rxm := #v[3, 0, 0x2A, 0, 5, 0], stage := [(0, 7), (1, 9), (2, 2)] }

/-- A state with an outcome and a refusal recorded (V-SYS-3). -/
def troubled : State :=
  { State.reset with cmderr := true, ecode := .state, fail := true, reason := .signalMismatch }

/-- V-SYS-4. -/
theorem test_nop : nextState (exec .nop troubled) = some { troubled with rsp := 0 } := by decide

/-- V-SYS-3: `RDSR 1` goes from `0x21` to `0x01`. -/
theorem test_errclr :
    troubled.cause = 0x21 ∧ (nextState (exec .errclr troubled)).map State.cause = some 0x01 := by decide

/-- V-CK-2. -/
theorem test_ckclr :
    (nextState (exec .ckclr { State.reset with acc := 0x12345678 })).map (·.acc) = some 0 := by decide

/-- V-CK-2: the sum wraps. -/
theorem test_ckadd_wraps :
    (nextState (exec (.ckadd 0xFF) { State.reset with acc := 0xFFFFFFFF })).map (·.acc) = some 0xFE := by decide

/-- V-CK-3. -/
theorem test_ckrd_order :
    [0, 1, 2, 3].map (fun k => (nextState (exec (.ckrd k) { State.reset with acc := 0x01020304 })).map (·.rsp)) =
      [some 1, some 2, some 3, some 4] := by decide

/-- V-CFG-7. -/
theorem test_plen_bounds :
    (nextState (exec (.plen 32) State.reset)).map (·.plen) = some 32 ∧
    nextState (exec (.plen 33) State.reset) = some (State.reset.refuse .range) := by decide

/-- V-CFG-7. -/
theorem test_pset_bounds :
    (nextState (exec (.pset 31 true) State.reset)).map (·.pat[31]?) = some (some true) ∧
    nextState (exec (.pset 32 true) State.reset) = some (State.reset.refuse .range) := by decide

/-- V-CFG-2: `META 0x0101, 0, 0` gives `size(TXM) = 257`. -/
theorem test_mset_size :
    (runCommands (Pseudo.expand (.metadata 0x0101 0 0)) State.reset).map (fun t => (t.txm, metaSize t.txm)) =
      some (#v[1, 1, 0, 0, 0, 0], 257) := by decide

/-- V-RX-1 after unit 83, and V-CFG-6. -/
theorem test_mrd :
    (nextState (exec (.mrd 4) (reading .rxPayload 0 0 0 0 false))).map (·.rsp) = some 5 ∧
    nextState (exec (.mrd 6) State.reset) = some (State.reset.refuse .range) := by decide

/-- V-CFG-4. -/
theorem test_ptr_halves :
    (nextState (exec (.ptr false 0) { State.reset with ptr := 0x0102 })).map (·.ptr) = some 0x0100 ∧
    (nextState (exec (.ptr true 1) State.reset)).map (·.ptr) = some 0x0100 := by decide

/-- V-CFG-4. -/
theorem test_txwr_bounds :
    (nextState (exec (.txwr 5) { State.reset with ptr := 0xFF })).map (fun t => (t.txbuf, t.ptr)) =
      some ([(255, 5)], 0x0100) ∧
    (nextState (exec (.txwr 5) { State.reset with ptr := 0x0100 })).map (fun t => (t.ecode, t.ptr, t.txbuf)) =
      some (.range, 0x0100, []) := by decide

/-- V-CFG-5. -/
theorem test_rxrd :
    (nextState (exec .rxrd { State.reset with publen := 3, pub := [(0, 7), (1, 9), (2, 2)], ptr := 2 })).map
      (fun t => (t.rsp, t.ptr)) = some (2, 3) ∧
    (nextState (exec .rxrd { State.reset with publen := 3, pub := [(0, 7), (1, 9), (2, 2)], ptr := 3 })).map
      (fun t => (t.rsp, t.ptr, t.ecode)) = some (0, 3, .range) := by decide

/-- V-SYS-1: `RDSR 9` is refused, after which `RDSR 0 -> 0x40`, `RDSR 1 -> 0x30`. -/
theorem test_rdsr :
    (nextState (exec (.rdsr 9) State.reset)).map (fun t => (t.stat, t.cause)) = some (0x40, 0x30) ∧
    (nextState (exec (.rdsr 6) scenario)).map (·.rsp) = some 3 := by decide

/-- V-RX-15 and V-RX-8. -/
theorem test_poll :
    (nextState (exec .poll State.reset)).map (fun t => (t.phase, t.ecode)) = some (.idle, .range) ∧
    (nextState (exec .poll { scenario with fail := true, reason := .signalMismatch })).map
      (fun t => (t.stat, t.cause)) = some (0x01, 0x00) := by decide

/-- V-TX-1 after `SEND`, and V-TX-4. -/
theorem test_send :
    (nextState (exec .send scenario)).map (fun t => (t.phase, t.dir, t.stat)) = some (.txPre, true, 0x12) ∧
    (nextState (exec .send { scenario with txm := #v[1, 1, 0, 0, 0, 0] })).map (fun t => (t.dir, t.ecode)) =
      some (false, .range) := by decide

/-- V-TX-1, `k = 83`: the last bit of the metadata checksum, `ACC` cleared, `TSEL` risen. -/
theorem test_step_send :
    (nextState (exec (.step false) (sending .txMck 0x32 3 7))).map
      (fun t => (t.phase, t.bcnt, t.bitcnt, t.acc, t.lineOut, t.stat)) =
      some (.txPay, 0, 0, 0, false, 0x32) := by decide

/-- V-RX-1, `k = 11`: the first octet `0x03` of the header. -/
theorem test_step_read :
    (nextState (exec (.step true) (reading .rxHeader 0 0 7 0x01 true))).map
      (fun t => (t.hdr[0], t.bcnt, t.bitcnt, t.acc)) = some (3, 1, 0, 3) := by decide

/-- V-TX-1 between `k = 83` and `k = 107` (`STAT = 0x32`) and V-RX-1 after unit 107: the pins of R50. -/
theorem test_pins :
    (sending .txPay 0 0 0).pins =
      { lineOut := false, lineOe := true, ok := false, fail := false, busy := true, tsel := true } ∧
    (reading .rxPayload 0x12 3 0 0 false).pins =
      { lineOut := false, lineOe := false, ok := false, fail := false, busy := true, tsel := false } := by decide

/-- V-TX-1: the frame of the scenario begins `101 00000011`, and `N(3, 3) = 139`. -/
theorem test_frame :
    (frame scenario.preamble scenario.txm [7, 9, 2]).take 11 =
      [true, false, true, false, false, false, false, false, false, true, true] ∧
    (frame scenario.preamble scenario.txm [7, 9, 2]).length = 139 ∧ frameUnits 3 3 = 139 := by decide +kernel

/-- V-CK-1: the checksum of the octets `07 09 02`. -/
theorem test_cksum :
    (runCommands (Pseudo.expand (.cksum [7, 9, 2])) State.reset).map (fun t => (t.acc, t.rsp)) = some (0x12, 0x12) := by
  decide

/-! ## Witnesses: the hypotheses of each statement are met, clause by clause at the ends of the ranges -/

/-- A small configuration, `PMAX = 3` and `MAX_PAYLOAD = 4`, with a preamble of two elements. -/
def small : State :=
  { State.reset with
    params := { pmax := 3, maxPayload := 4, tDefault := 0 }
    plen := 2
    pat := [true, false, true]
    mbuf := [false, false, false]
    txm := #v[4, 0, 0, 0, 0, 0]
    txbuf := [(0, 7), (1, 9), (2, 2), (3, 255)] }

/-- `small` in a read, with a header of size 2 received. -/
def smallRead (p : Phase) (acc : BitVec 32) (bcnt : BitVec 17) (bitcnt : BitVec 3) : State :=
  { small with
    phase := p, acc := acc, bcnt := bcnt, bitcnt := bitcnt, shreg := 0x81
    hdr := #v[2, 0, 0, 0, 0, 0], rxm := #v[2, 0, 0, 0, 0, 0], stage := [(0, 5), (1, 6)] }

/-- `small` in a send. -/
def smallSend (p : Phase) (acc : BitVec 32) (bcnt : BitVec 17) (bitcnt : BitVec 3) : State :=
  { small with phase := p, dir := true, acc := acc, bcnt := bcnt, bitcnt := bitcnt }

/-- The event of a word on the command port. -/
def wordEvent (w : CmdWord) : PortEvent := { rst := false, cmd := some w, lineIn := true }

theorem inv_small : small.Inv := by
  constructor
  case position => trivial
  all_goals decide

theorem inv_smallRead_sync : (smallRead .rxSync 0 0 0).Inv := by
  constructor
  case position => exact (by decide : (0 : BitVec 8) < 2 ∧ (0 : BitVec 3) = 0 ∧ (0 : BitVec 17) = 0)
  all_goals decide

theorem inv_smallRead_payload : (smallRead .rxPayload 11 5 7).Inv := by
  constructor
  case position =>
    exact (by decide : 2 ≤ 4 ∧ 5 < 2 + 4 ∧ ∀ i, i < 5 → i < 2 → (Memory.get? [(0, 5), (1, 6)] i).isSome)
  all_goals decide

theorem inv_smallSend_pay : (smallSend .txPay 273 3 7).Inv := by
  constructor
  case position => exact (by decide : 3 < 4 ∧ 4 ≤ 4)
  all_goals decide

theorem witness_DecodeInvertsEncode :
    ∀ i ∈ ([.plen 255, .pset 255 true, .mset 15 255, .mrd 15, .rdsr 15, .ckrd 3, .step true, .ptr true 255] : List Instr),
      i.wellFormed = true := by decide
theorem witness_EncodeInvertsDecode : decode 0x6FFF = .ok (.mset 15 0xFF) := by decide
theorem witness_DecodedRowIsTheOnlyRowThatMatches :
    decode 0x0100 = .ok .errclr ∧ decode 0xE002 = .error .reservedBitSet := by decide
theorem witness_IllegalWordsAreRefusedInEveryState :
    List.Forall listedAsIllegal [0xF000, 0x0001, 0x0101, 0x1001, 0xAFFF, 0xC100, 0xD001, 0x2100, 0x4F00, 0x9100,
      0x3004, 0x3100, 0x5200, 0x8F00, 0x7501, 0xB001, 0xE002, 0xE100] := by
  simp only [List.Forall]
  and_intros <;> (unfold listedAsIllegal; decide)

theorem witness_StepRunsThePresentedCommand :
    (wordEvent 0x2001).rst = false ∧ (wordEvent 0x2001).cmd = some 0x2001 ∧ decode 0x2001 = .ok (.ckadd 1) ∧
    (nextState (step { small with inputs := [wordEvent 0x2001] })).map (·.acc) = some 1 ∧
    ({ rst := false, cmd := none, lineIn := true } : PortEvent).cmd = none ∧ small.inputs = [] ∧
    (nextState (step { small with inputs := [{ rst := true, cmd := some 0x2001, lineIn := true }] })).map (·.plen) =
      some 0 := by decide
theorem witness_FetchWordRunsNext : (Instr.rdsr 15).wellFormed = true := by decide
theorem witness_ResetGivesTheResetValues :
    ({ small with inputs := [{ rst := true, cmd := some 0xE001, lineIn := true }] } : State).inputs =
      { rst := true, cmd := some 0xE001, lineIn := true } :: [] := by decide

theorem witness_RdsrReadsTheStatusRegisters :
    (8 ≤ 8 ∧ (nextState (exec (.rdsr 8) small)).map (·.rsp) = some 0) ∧
    (9 ≤ 9 ∧ 9 < 16 ∧ (nextState (exec (.rdsr 9) small)).map (·.ecode) = some .range) := by decide
theorem witness_CkclrClearsTheAccumulator : small.phase = .idle ∧ (smallRead .rxSync 0 0 0).phase ≠ .idle := by decide
theorem witness_CkaddAddsAnOctetModulo2To32 : small.phase = .idle ∧ (smallSend .txEnd 0 0 0).phase ≠ .idle := by decide
theorem witness_ChecksumSequenceReturnsTheDigest : small.phase = .idle := by decide
theorem witness_ChecksumDetectsOneOctetButNotReordering :
    ([1, 2] : List Octet).Perm [2, 1] ∧ (0 : Octet) ≠ 255 ∧
      (7 : Octet).toNat + (9 : Octet).toNat = (8 : Octet).toNat + (8 : Octet).toNat := by decide

theorem witness_PlenSetsThePreambleLength :
    (4 < 256 ∧ (smallRead .rxSync 0 0 0).phase ≠ .idle) ∧ (small.phase = .idle ∧ small.params.pmax < 4) ∧
    (nextState (exec (.plen 1) small)).map (·.plen) = some 1 ∧
    (3 ≤ small.params.pmax ∧ (nextState (exec (.plen 3) small)).map (·.plen) = some 3) := by decide
theorem witness_PsetSetsOnePreambleElement :
    (255 < 256 ∧ small.pat.length = small.params.pmax) ∧ (small.phase = .idle ∧ small.params.pmax ≤ 3) ∧
    (2 < small.params.pmax ∧ (nextState (exec (.pset 2 false) small)).map (·.pat) = some [true, false, false]) ∧
    ((smallSend .txPre 0 0 0).phase ≠ .idle ∧
      (smallSend .txPre 0 0 0).pat.length = (smallSend .txPre 0 0 0).params.pmax) := by decide
theorem witness_MsetSetsOneMetadataOctet :
    (small.phase = .idle ∧ 15 < 16 ∧ 6 ≤ 15) ∧
    (nextState (exec (.mset 5 9) small)).map (·.txm) = some #v[4, 0, 0, 0, 0, 9] ∧
    (nextState (exec (.mset 6 9) small)).map (·.ecode) = some .range ∧ (smallSend .txPre 0 0 0).phase ≠ .idle := by decide
theorem witness_MrdReadsOneMetadataOctet :
    (nextState (exec (.mrd 0) (smallRead .rxPayload 0 0 0))).map (·.rsp) = some 2 ∧
    (nextState (exec (.mrd 5) (smallRead .rxPayload 0 0 0))).map (·.rsp) = some 0 ∧ 6 ≤ 6 ∧ 15 < 16 := by decide
theorem witness_TxwrStoresAtThePointer :
    (small.phase = .idle ∧ small.params.maxPayload ≤ ({ small with ptr := 4 } : State).ptr.toNat) ∧
    ({ small with ptr := 3 } : State).ptr.toNat < small.params.maxPayload ∧ (smallSend .txPay 0 0 0).phase ≠ .idle := by
  decide
theorem witness_RxrdLoadsAtThePointer :
    small.publen.toNat ≤ small.ptr.toNat ∧
    (nextState (exec .rxrd { small with publen := 4, pub := [(3, 8)], ptr := 3 })).map (·.rsp) = some 8 := by decide

theorem witness_RefusalKeepsTheFirstCause : small.cmderr = false ∧ troubled.cmderr = true := by decide
theorem witness_CommandsAreRefusedExactlyAsListed :
    wrongPhase .send (smallRead .rxSync 0 0 0) ∧ wrongPhase (.step true) small ∧
    (¬wrongPhase (.plen 0) small ∧ outOfRange (.plen 0) small) ∧
    (¬wrongPhase (.plen 3) small ∧ ¬outOfRange (.plen 3) small) := by
  unfold wrongPhase outOfRange
  decide
theorem witness_RecordedRefusalStaysUntilErrclrOrReset :
    troubled.cmderr = true ∧
    (nextState (step { troubled with inputs := [wordEvent 0x0000] })).map (·.ecode) = some .state ∧
    (nextState (step { troubled with inputs := [wordEvent 0x0100] })).map (·.ecode) = some .none := by decide

theorem witness_SendStartsATransmission :
    (smallRead .rxSync 0 0 0).phase ≠ .idle ∧ (State.reset.phase = .idle ∧ State.reset.plen = 0) ∧
    small.params.maxPayload < (metaSize #v[5, 0, 0, 0, 0, 0]).toNat ∧
    (small.phase = .idle ∧ small.plen ≠ 0 ∧ (metaSize small.txm).toNat = small.params.maxPayload) := by decide
theorem witness_OnlyStepMovesTheEngine :
    ((∀ c, Instr.nop ≠ .step c) ∧ (nextState (exec .nop (smallSend .txPay 0 0 0))).isSome) ∧
    ((smallRead .rxSync 0 0 0).rxBusy = true ∧ (nextState (exec (.step true) (smallRead .rxSync 0 0 0))).isSome) ∧
    (smallSend .txEnd 0 0 0).phase = .txEnd ∧ small.phase = .idle := by decide
theorem witness_ContinueFlagIsIgnoredInASend :
    (smallSend .txPre 0 0 0).txBusy = true ∧ (smallSend .txEnd 0 0 0).txBusy = true := by decide
theorem witness_TxPreDrivesThePreamble :
    ((smallSend .txPre 0 0 0).phase = .txPre ∧ (smallSend .txPre 0 0 0).pat[0]? = some true ∧
      (smallSend .txPre 0 0 0).idx + 1 ≠ small.plen) ∧
    (({ smallSend .txPre 0 0 0 with idx := 1 } : State).pat[1]? = some false ∧
      ({ smallSend .txPre 0 0 0 with idx := 1 } : State).idx + 1 = small.plen) := by decide
theorem witness_TxMetaDrivesTheMetadata :
    (smallSend .txMeta 0 0 0).txm[0]? = some 4 ∧ (smallSend .txMeta 4 4 7).txm[4]? = some 0 ∧
    (smallSend .txMeta 4 5 7).txm[5]? = some 0 ∧ (smallSend .txMeta 4 5 7).sumIsRunning :=
  ⟨by decide, by decide, by decide, (by decide : (4 : BitVec 32) = cksum (small.txm.toList.take 6))⟩
theorem witness_TxMckDrivesTheMetadataChecksum :
    (digest (smallSend .txMck 4 0 6).acc)[0]? = some 0 ∧ (digest (smallSend .txMck 4 2 7).acc)[2]? = some 0 ∧
    (digest (smallSend .txMck 4 3 7).acc)[3]? = some 4 ∧ metaSize (smallSend .txMck 4 3 7).txm ≠ 0 ∧
    metaSize ({ smallSend .txMck 0 3 7 with txm := Vector.replicate 6 0 } : State).txm = 0 := by decide
theorem witness_TxPayDrivesThePayload :
    ((smallSend .txPay 0 0 0).bcnt.toNat < (metaSize small.txm).toNat ∧ (metaSize small.txm).toNat ≤ small.params.maxPayload) ∧
    (smallSend .txPay 0 2 7).bcnt.toNat + 1 ≠ (metaSize small.txm).toNat ∧
    (smallSend .txPay 0 3 7).bcnt.toNat + 1 = (metaSize small.txm).toNat := by decide
theorem witness_TxPckDrivesThePayloadChecksum :
    (digest (smallSend .txPck 273 0 6).acc)[0]? = some 0 ∧ (digest (smallSend .txPck 273 2 7).acc)[2]? = some 1 ∧
    (digest (smallSend .txPck 273 3 7).acc)[3]? = some 17 ∧ (smallSend .txPck 273 3 7).sumIsRunning :=
  ⟨by decide, by decide, by decide, (by decide : (273 : BitVec 32) = cksum [7, 9, 2, 255])⟩
theorem witness_TxEndReleasesTheLine : (smallSend .txEnd 0 0 0).phase = .txEnd := by decide
theorem witness_SendDrivesTheFrame :
    small.Inv ∧ small.phase = .idle ∧ small.plen ≠ 0 ∧ (metaSize small.txm).toNat ≤ small.params.maxPayload ∧
      (List.replicate 146 false).length = small.plen.toNat + 8 * (14 + (metaSize small.txm).toNat) :=
  ⟨inv_small, by decide +kernel⟩

theorem witness_PollStartsARead :
    (smallSend .txPre 0 0 0).phase ≠ .idle ∧ (State.reset.phase = .idle ∧ State.reset.plen = 0) ∧
    (small.phase = .idle ∧ small.plen ≠ 0) := by decide
theorem witness_StopRequestFailsTheRead :
    (smallRead .rxSync 0 0 0).phase = .rxSync ∧ (smallRead .rxHeader 0 0 0).phase = .rxHeader ∧
    (smallRead .rxPayload 0 0 0).phase = .rxPayload := by decide
theorem witness_SyncStepComparesWholeBlocks :
    ((smallRead .rxSync 0 0 0).idx.toNat < small.mbuf.length ∧ (smallRead .rxSync 0 0 0).idx + 1 ≠ small.plen) ∧
    (nextState (exec (.step true) { smallRead .rxSync 0 0 0 with idx := 1, mbuf := [true, false, false] })).map
      (·.phase) = some .rxHeader ∧
    (nextState (exec (.step true) { smallRead .rxSync 0 0 0 with idx := 1, mbuf := [false, false, false] })).map
      (fun t => (t.phase, t.idx)) = some (.rxSync, 0) := by decide
theorem witness_SampleIsShiftedIntoTheOctet :
    (smallRead .rxHeader 0 0 6).bitcnt ≠ 7 ∧ (smallRead .rxPayload 0 0 0).bitcnt ≠ 7 := by decide
theorem witness_HeaderOctetIsCheckedWhenComplete :
    (2 : Octet).toNat = (2 * (smallRead .rxHeader 0 0 7).shreg.toNat + (smallRead .rxHeader 0 0 7).lineIn.toNat) % 256 ∧
    ((smallRead .rxHeader 0 5 7).bcnt.toNat < 6 ∧ 6 ≤ (smallRead .rxHeader 0 6 7).bcnt.toNat ∧
      (smallRead .rxHeader 0 8 7).bcnt.toNat < 9) ∧
    (smallRead .rxHeader 1 9 7).rxck.setIfInBounds 3 2 ≠ digest 1 ∧
    ((smallRead .rxHeader 2 9 7).rxck.setIfInBounds 3 2 = digest 2 ∧
      (metaSize (smallRead .rxHeader 2 9 7).hdr).toNat ≤ small.params.maxPayload) ∧
    small.params.maxPayload < (metaSize #v[5, 0, 0, 0, 0, 0]).toNat ∧
    (smallRead .rxHeader 2 6 7).sumIsRunning :=
  ⟨by decide, by decide, by decide, by decide, by decide, (by decide : (2 : BitVec 32) = cksum [2, 0, 0, 0, 0, 0])⟩
theorem witness_PayloadOctetIsStaged :
    ((metaSize (smallRead .rxPayload 5 1 7).rxm).toNat ≤ small.params.maxPayload ∧
      (smallRead .rxPayload 5 1 7).bcnt.toNat < (metaSize (smallRead .rxPayload 5 1 7).rxm).toNat) ∧
    (metaSize (smallRead .rxPayload 11 2 7).rxm).toNat ≤ (smallRead .rxPayload 11 2 7).bcnt.toNat ∧
    (smallRead .rxPayload 11 4 7).bcnt.toNat < (metaSize (smallRead .rxPayload 11 4 7).rxm).toNat + 3 := by decide
theorem witness_VerifiedPayloadIsPublished :
    (smallRead .rxPayload 11 5 7).bcnt.toNat = (metaSize (smallRead .rxPayload 11 5 7).rxm).toNat + 3 ∧
    (smallRead .rxPayload 11 5 7).rxck.setIfInBounds 3 2 ≠ digest 11 ∧
    (smallRead .rxPayload 2 5 7).rxck.setIfInBounds 3 2 = digest 2 ∧
    (smallRead .rxPayload 11 5 7).sumIsRunning :=
  ⟨by decide, by decide, by decide, (by decide : (11 : BitVec 32) = cksum [5, 6])⟩
theorem witness_DetectorIsBlockAligned :
    (smallRead .rxSync 0 0 0).Inv ∧ (smallRead .rxSync 0 0 0).idx = 0 ∧
    (∀ j, (j + 1) * 2 ≤ 3 → block 2 [false, true, false] j ≠ [true, false]) ∧
    ([false, true, true, false].length = (1 + 1) * 2 ∧
      (∀ j, j < 1 → block 2 [false, true, true, false] j ≠ (smallRead .rxSync 0 0 0).preamble) ∧
      block 2 [false, true, true, false] 1 = (smallRead .rxSync 0 0 0).preamble) :=
  ⟨inv_smallRead_sync, by decide,
    fun j h => by obtain rfl : j = 0 := by omega
                  decide, by decide⟩
theorem witness_ReceivedFrameIsPublished :
    small.Inv ∧ small.phase = .idle ∧ small.plen ≠ 0 ∧ [false, true].length = 1 * small.plen.toNat ∧
    (∀ j, j < 1 → block 2 [false, true] j ≠ small.preamble) ∧
    ([7, 9, 2, 255] : List Octet).length = (metaSize small.txm).toNat ∧
    ([7, 9, 2, 255] : List Octet).length ≤ small.params.maxPayload := ⟨inv_small, by decide⟩
theorem witness_OneChangedOctetFailsTheRead :
    small.Inv ∧ small.phase = .idle ∧ small.plen ≠ 0 ∧
    ([7, 9, 2, 255] : List Octet).length = (metaSize small.txm).toNat ∧
    ([7, 9, 2, 255] : List Octet).length ≤ small.params.maxPayload ∧
    small.txm[(5 : Fin 6)] ≠ 1 ∧ ([7, 9, 2, 255] : List Octet)[3]? ≠ some 1 := ⟨inv_small, by decide⟩
theorem witness_LoopbackRoundTrip :
    small.Inv ∧ small.phase = .idle ∧ small.plen ≠ 0 ∧ small.preamble = small.preamble ∧
    (metaSize small.txm).toNat ≤ small.params.maxPayload := ⟨inv_small, by decide⟩

theorem witness_PhaseMovesAlongTheListedEdges :
    (nextState (exec .poll small)).map (·.phase) = some .rxSync ∧
    (nextState (exec .send small)).map (·.phase) = some .txPre ∧
    (nextState (exec (.step true) (smallSend .txEnd 0 0 0))).map (·.phase) = some .idle ∧
    (nextState (exec (.step true) (smallSend .txMck 4 3 7))).map (·.phase) = some .txPay ∧
    (nextState (exec (.step true) { smallSend .txMck 0 3 7 with txm := Vector.replicate 6 0 })).map (·.phase) =
      some .txPck := by decide
theorem witness_ReadEndsInOneOfThreeWays :
    (smallRead .rxPayload 2 5 7).rxBusy = true ∧
    (nextState (exec (.step true) (smallRead .rxPayload 2 5 7))).map (fun t => (t.phase, t.ok)) = some (.idle, true) ∧
    (nextState (exec (.step true) (smallRead .rxHeader 3 9 7))).map (fun t => (t.phase, t.reason)) =
      some (.idle, .integrityFailure) ∧
    (nextState (exec (.step false) (smallRead .rxHeader 3 9 7))).map (fun t => (t.phase, t.reason)) =
      some (.idle, .cancelled) := by decide
theorem witness_InvariantHoldsAtReset : small.params.wf ∧ State.reset.params.wf := by decide
theorem witness_EveryStepKeepsTheInvariant :
    (smallRead .rxPayload 11 5 7).Inv ∧
    (nextState (step { smallRead .rxPayload 11 5 7 with inputs := [wordEvent 0xE001] })).isSome :=
  ⟨inv_smallRead_payload, by decide⟩
theorem witness_EveryStepGoesOn : (smallSend .txPay 273 3 7).Inv := inv_smallSend_pay
theorem witness_EveryStepKeepsTheRunningChecksum :
    (smallSend .txPay 273 3 7).Inv ∧ (smallSend .txPay 273 3 7).sumIsRunning ∧
    (nextState (step { smallSend .txPay 273 3 7 with inputs := [wordEvent 0xE000] })).map (·.phase) = some .txPck :=
  ⟨inv_smallSend_pay, (by decide : (273 : BitVec 32) = cksum [7, 9, 2, 255]), by decide⟩
theorem witness_PublishedPayloadChangesOnlyOnSuccess :
    (nextState (step { smallRead .rxPayload 2 5 7 with inputs := [wordEvent 0xE001] })).map (·.phase) = some .idle ∧
    (nextState (step { small with publen := 1, inputs := [{ rst := true, cmd := none, lineIn := false }] })).map
      (·.publen) = some 0 := by decide
theorem witness_ConfigurationIsConstantWhileBusy :
    (smallRead .rxSync 0 0 0).phase ≠ .idle ∧ (wordEvent 0x4001).rst = false ∧
    (nextState (step { smallRead .rxSync 0 0 0 with inputs := [wordEvent 0x4001] })).map (·.plen) = some 2 := by decide
theorem witness_PointerIsOutOfTheEnginesReach :
    ((nextState (exec (.ptr true 1) small)).map (·.ptr) = some 256 ∧ small.ptr ≠ 256) ∧
    (nextState (exec (.step true) (smallRead .rxSync 0 0 0))).isSome := by decide
theorem witness_LineIsSampledOnlyInAReadStep :
    ¬(Instr.step true = .step true ∧ (smallSend .txPay 0 0 0).rxBusy = true) ∧
    ¬(Instr.step false = .step true ∧ (smallRead .rxSync 0 0 0).rxBusy = true) := by decide
theorem witness_TransmitBufferIsReadByTheSendAlone :
    ¬((∃ c, Instr.step true = .step c) ∧ (smallRead .rxPayload 2 5 7).phase = .txPay) ∧
    ¬((∃ c, Instr.ckrd 3 = .step c) ∧ (smallSend .txPay 0 0 0).phase = .txPay) := by decide
theorem witness_NoStepChangesTheParameters : (nextState (step small)).isSome := by decide

end Sys2Proof.Tests
end

section
/-! What a step runs, by what the ports present, and the OPEN parameters, which nothing writes
(00_scope.md R6, R8, R9). -/

namespace Sys2Proof.Machine

/-! ## What is taken from the ports (30_encoding.md R90, 70_reset_and_hazards.md R300) -/

theorem takeEvent_of_nil {s : State} (h : s.inputs = []) : s.takeEvent = (.quiet, s) := by
  simp only [State.takeEvent, h]

theorem takeEvent_of_cons {s : State} {e : PortEvent} {rest : List PortEvent} (h : s.inputs = e :: rest) :
    s.takeEvent = (e.presented, { s with inputs := rest, lineIn := e.lineIn }) := by
  simp only [State.takeEvent, h]

theorem presented_of_rst {e : PortEvent} (h : e.rst = true) : e.presented = .reset := if_pos h

theorem presented_of_cmd_some {e : PortEvent} {w : CmdWord} (hr : e.rst = false) (hc : e.cmd = some w) :
    e.presented = .word w := by
  simp [PortEvent.presented, hr, hc]

theorem presented_of_cmd_none {e : PortEvent} (hr : e.rst = false) (hc : e.cmd = none) :
    e.presented = .quiet := by
  simp [PortEvent.presented, hr, hc]

/-! ## The step, by what was taken -/

theorem step_of_quiet {s t : State} (h : s.takeEvent = (.quiet, t)) : step s = .next t := by
  simp only [step, h]

theorem step_of_reset {s t : State} (h : s.takeEvent = (.reset, t)) : step s = .next t.takeReset := by
  simp only [step, h]

theorem step_of_word {s t : State} {w : CmdWord} {i : Instr} (h : s.takeEvent = (.word w, t))
    (hd : decode w = .ok i) : step s = exec i t := by
  simp only [step, h, hd]

/-! ## The OPEN parameters (00_scope.md R6) -/

theorem whenIdle_params {s t : State} (h : t.params = s.params) : (s.whenIdle t).params = s.params := by
  unfold State.whenIdle
  split
  · exact h
  · exact s.refuse_params .state

theorem whenInRange_params {s t : State} {b : Bool} (h : t.params = s.params) :
    (s.whenInRange b t).params = s.params := by
  cases b with
  | false => exact s.refuse_params .range
  | true => exact h

theorem StepEffect.params {c : Level} {s t : State} (h : StepEffect c s t) : t.params = s.params := by
  cases h <;> rfl

/-- An answer with the parameters of `s`, for the commands that always go on. -/
theorem params_of_next {s t u : State}
    (h : (.next u : Host.Outcome State Fault Refusal) = .next t) (hu : u.params = s.params) :
    t.params = s.params := by
  cases h
  exact hu

/-- No command writes the parameters: each leaves a state made from `s` by writing other fields, or
the refusal of `s`. -/
theorem exec_next_params {i : Instr} {s t : State} (h : exec i s = .next t) : t.params = s.params := by
  cases i with
  | nop => exact params_of_next h rfl
  | errclr => exact params_of_next h rfl
  | rdsr r =>
    simp only [exec, execRdsr] at h
    split at h <;> exact params_of_next h rfl
  | ckclr => exact params_of_next h (whenIdle_params rfl)
  | ckadd d => exact params_of_next h (whenIdle_params rfl)
  | ckrd k => exact params_of_next h rfl
  | plen n => exact params_of_next h (whenIdle_params (whenInRange_params rfl))
  | pset j b => exact params_of_next h (whenIdle_params (whenInRange_params rfl))
  | mset j d => exact params_of_next h (whenIdle_params (whenInRange_params rfl))
  | mrd j =>
    simp only [exec, execMrd] at h
    split at h <;> exact params_of_next h rfl
  | ptr b d => exact params_of_next h rfl
  | txwr d => exact params_of_next h (whenIdle_params (whenInRange_params rfl))
  | rxrd => exact params_of_next h (whenInRange_params rfl)
  | poll => exact params_of_next h (whenIdle_params (whenInRange_params rfl))
  | send => exact params_of_next h (whenIdle_params (whenInRange_params rfl))
  | step c => exact (execStep_next_iff.1 h).params

/-! ## The statements settled -/

/-- Settles O60, by cases on what a step can do: nothing, a `RESET`, a refusal or a command. -/
theorem noStepChangesTheParameters : Obligations.NoStepChangesTheParameters := by
  intro s t h
  obtain ⟨-, rfl⟩ | ⟨e, rest, -, hcase⟩ := step_cases h
  · rfl
  · obtain ⟨-, -, rfl⟩ | ⟨-, rfl⟩ | ⟨w, d, -, -, -, rfl⟩ | ⟨w, i, -, -, -, hx⟩ := hcase
    · rfl
    · rfl
    · rfl
    · have hp := exec_next_params hx
      exact hp

/-- Settles O6, by cases on the event taken. -/
theorem stepRunsThePresentedCommand : Obligations.StepRunsThePresentedCommand := by
  refine ⟨fun s e rest hi hr => ⟨fun w i hc hd => ?_, fun hc => ?_⟩, fun s e rest hi hr => ?_,
    fun s hi => step_of_quiet (takeEvent_of_nil hi)⟩
  · exact step_of_word (presented_of_cmd_some hr hc ▸ takeEvent_of_cons hi) hd
  · exact step_of_quiet (presented_of_cmd_none hr hc ▸ takeEvent_of_cons hi)
  · exact step_of_reset (presented_of_rst hr ▸ takeEvent_of_cons hi)

end Sys2Proof.Machine
end

section
/-! What a command can do when it goes on, said once for all sixteen commands: the inversion that the
step lemmas below use. -/

namespace Sys2Proof.Machine

/-- The effects of a command on `s`, with the guards of R282 and R283 under which it executes. The
first two constructors hold of any command: a refusal (60_exceptions.md R280), and an answer that
changes the response alone, which `NOP`, `CKRD`, `MRD` and `RDSR` give. -/
inductive CommandEffect (s : State) : Instr → State → Prop where
  | refused (i : Instr) (code : ErrorCode) (hcode : code ≠ .none) : CommandEffect s i (s.refuse code)
  | answered (i : Instr) (v : Octet) : CommandEffect s i (s.respond v)
  /-- 44_system.md R241. -/
  | errclr : CommandEffect s .errclr (s.acknowledge.respond 0)
  /-- 40_checksum.md R123. -/
  | ckclr (h : s.phase = .idle) : CommandEffect s .ckclr { s with acc := 0, rsp := 0 }
  /-- 40_checksum.md R124. -/
  | ckadd (d : Octet) (h : s.phase = .idle) : CommandEffect s (.ckadd d) ((s.absorb d).respond 0)
  /-- 41_config_buffers.md R140. -/
  | plen (n : Nat) (h : s.phase = .idle) (hn : 1 ≤ n ∧ n ≤ s.params.pmax) :
      CommandEffect s (.plen n) { s with plen := BitVec.ofNat 8 n, rsp := 0 }
  /-- R141. -/
  | pset (j : Nat) (b : Level) (h : s.phase = .idle) (hj : j < s.params.pmax) :
      CommandEffect s (.pset j b) { s with pat := s.pat.set j b, rsp := 0 }
  /-- R142. -/
  | mset (j : Nat) (d : Octet) (h : s.phase = .idle) (hj : j < Config.metaBytes) :
      CommandEffect s (.mset j d) { s with txm := s.txm.setIfInBounds j d, rsp := 0 }
  /-- R144. -/
  | ptr (b : Level) (d : Octet) : CommandEffect s (.ptr b d) { s with ptr := setHalf s.ptr b d, rsp := 0 }
  /-- R145. -/
  | txwr (d : Octet) (h : s.phase = .idle) (hp : s.ptr.toNat < s.params.maxPayload) :
      CommandEffect s (.txwr d)
        { s with txbuf := Memory.write s.txbuf s.ptr.toNat d, ptr := s.ptr + 1, rsp := 0 }
  /-- R146. -/
  | rxrd (h : s.ptr < s.publen) :
      CommandEffect s .rxrd { s with rsp := s.cell .pub s.ptr.toNat, ptr := s.ptr + 1 }
  /-- 43_frame_rx.md R200. -/
  | poll (h : s.phase = .idle) (hp : s.plen ≠ 0) :
      CommandEffect s .poll { s.clearOutcome.start .rxSync with dir := false, rsp := 0 }
  /-- 42_frame_tx.md R170. -/
  | send (h : s.phase = .idle) (hp : s.plen ≠ 0) (hm : (metaSize s.txm).toNat ≤ s.params.maxPayload) :
      CommandEffect s .send { s.start .txPre with dir := true, rsp := 0 }
  /-- R171. -/
  | step (c : Level) (t : State) (h : StepEffect c s t) : CommandEffect s (.step c) t

/-- A command checked for its phase alone is refused or executed. -/
theorem CommandEffect.of_whenIdle {s t : State} {i : Instr}
    (ht : s.phase = .idle → CommandEffect s i t) : CommandEffect s i (s.whenIdle t) := by
  by_cases h : s.phase = .idle
  · rw [State.whenIdle_of_idle t h]
    exact ht h
  · rw [State.whenIdle_of_busy t h]
    exact .refused i .state (by decide)

/-- A command checked for its range alone is refused or executed. -/
theorem CommandEffect.of_whenInRange {s t : State} {i : Instr} {b : Bool}
    (ht : b = true → CommandEffect s i t) : CommandEffect s i (s.whenInRange b t) := by
  cases b with
  | false => exact .refused i .range (by decide)
  | true => exact ht rfl

/-- The effect of a command that answers one state in every case. -/
theorem CommandEffect.of_next {s t u : State} {i : Instr} (hu : CommandEffect s i u)
    (h : (.next u : Host.Outcome State Fault Refusal) = .next t) : CommandEffect s i t := by
  cases h
  exact hu

/-- Whatever a command answers is one of its effects. -/
theorem exec_next_effect {i : Instr} {s t : State} (h : exec i s = .next t) : CommandEffect s i t := by
  cases i with
  | nop => exact .of_next (.answered _ _) h
  | errclr => exact .of_next .errclr h
  | rdsr r =>
    simp only [exec, execRdsr] at h
    split at h
    · exact .of_next (.answered _ _) h
    · exact .of_next (.refused _ .range (by decide)) h
  | ckclr => exact .of_next (.of_whenIdle .ckclr) h
  | ckadd d => exact .of_next (.of_whenIdle (.ckadd d)) h
  | ckrd k => exact .of_next (.answered _ _) h
  | plen n =>
    exact .of_next (.of_whenIdle fun hi => .of_whenInRange fun hn => .plen n hi (of_decide_eq_true hn)) h
  | pset j b =>
    exact .of_next (.of_whenIdle fun hi => .of_whenInRange fun hj => .pset j b hi (of_decide_eq_true hj)) h
  | mset j d =>
    exact .of_next (.of_whenIdle fun hi => .of_whenInRange fun hj => .mset j d hi (of_decide_eq_true hj)) h
  | mrd j =>
    simp only [exec, execMrd] at h
    split at h
    · exact .of_next (.answered _ _) h
    · exact .of_next (.refused _ .range (by decide)) h
  | ptr b d => exact .of_next (.ptr b d) h
  | txwr d =>
    exact .of_next (.of_whenIdle fun hi => .of_whenInRange fun hp => .txwr d hi (of_decide_eq_true hp)) h
  | rxrd => exact .of_next (.of_whenInRange fun hp => .rxrd (of_decide_eq_true hp)) h
  | poll =>
    exact .of_next (.of_whenIdle fun hi => .of_whenInRange fun hp => .poll hi (of_decide_eq_true hp)) h
  | send =>
    refine .of_next (.of_whenIdle fun hi => .of_whenInRange fun hp => ?_) h
    obtain ⟨hplen, hsize⟩ := of_decide_eq_true hp
    exact .send hi hplen hsize
  | step c => exact .step c t (execStep_next_iff.1 h)

end Sys2Proof.Machine
end

section
/-! The invariant of the whole state (10_state.md R22, R23, R28 to R31, R33, R34, R37 to R39, R41): what
`RESET`, the ports, a refusal, each command and each rule of the engine do to it. -/

namespace Sys2Proof.Machine

/-! ## The busy functions and the position, by phase (R29, R40) -/

theorem rxBusy_of_phase {s : State} {p : Phase} (h : s.phase = p) :
    s.rxBusy = (p == .rxSync || p == .rxHeader || p == .rxPayload) := h ▸ rfl

theorem txBusy_of_phase {s : State} {p : Phase} (h : s.phase = p) :
    s.txBusy = decide (4 ≤ p.code.toNat ∧ p.code.toNat ≤ 9) := h ▸ rfl

theorem busy_of_phase {s : State} {p : Phase} (h : s.phase = p) : s.busy = (p != .idle) := h ▸ rfl

/-- A read and a send exclude each other. -/
theorem txBusy_of_rxBusy {s : State} (h : s.rxBusy = true) : s.txBusy = false := by
  have hall : ∀ p : Phase, (p == .rxSync || p == .rxHeader || p == .rxPayload) = true →
      decide (4 ≤ p.code.toNat ∧ p.code.toNat ≤ 9) = false := by
    intro p
    cases p <;> decide
  exact hall s.phase h

theorem busy_of_rxBusy {s : State} (h : s.rxBusy = true) : s.busy = true := by
  cases hp : s.phase
  case idle => exact absurd ((rxBusy_of_phase hp).symm.trans h) (by decide)
  all_goals exact busy_of_phase hp

theorem busy_of_txBusy {s : State} (h : s.txBusy = true) : s.busy = true := by
  cases hp : s.phase
  case idle => exact absurd ((txBusy_of_phase hp).symm.trans h) (by decide)
  all_goals exact busy_of_phase hp

theorem position_idle {s : State} (h : s.phase = .idle) : s.positionInBounds := by
  simp only [State.positionInBounds, h]

theorem position_rxSync {s : State} (h : s.phase = .rxSync) :
    s.positionInBounds ↔ s.idx < s.plen ∧ s.bitcnt = 0 ∧ s.bcnt = 0 := by
  simp only [State.positionInBounds, h]

theorem position_rxHeader {s : State} (h : s.phase = .rxHeader) :
    s.positionInBounds ↔ s.bcnt.toNat < 10 := by
  simp only [State.positionInBounds, h]

theorem position_rxPayload {s : State} (h : s.phase = .rxPayload) :
    s.positionInBounds ↔ s.rxSize ≤ s.params.maxPayload ∧ s.bcnt.toNat < s.rxSize + 4 ∧
      ∀ i, i < s.bcnt.toNat → i < s.rxSize → (Memory.get? s.stage i).isSome := by
  simp only [State.positionInBounds, h]

theorem position_txPre {s : State} (h : s.phase = .txPre) :
    s.positionInBounds ↔ s.idx < s.plen ∧ s.bitcnt = 0 ∧ s.bcnt = 0 ∧
      (metaSize s.txm).toNat ≤ s.params.maxPayload := by
  simp only [State.positionInBounds, h]

theorem position_txMeta {s : State} (h : s.phase = .txMeta) :
    s.positionInBounds ↔ s.bcnt.toNat < 6 ∧ (metaSize s.txm).toNat ≤ s.params.maxPayload := by
  simp only [State.positionInBounds, h]

theorem position_txMck {s : State} (h : s.phase = .txMck) :
    s.positionInBounds ↔ s.bcnt.toNat < 4 ∧ (metaSize s.txm).toNat ≤ s.params.maxPayload := by
  simp only [State.positionInBounds, h]

theorem position_txPay {s : State} (h : s.phase = .txPay) :
    s.positionInBounds ↔ s.bcnt.toNat < (metaSize s.txm).toNat ∧
      (metaSize s.txm).toNat ≤ s.params.maxPayload := by
  simp only [State.positionInBounds, h]

theorem position_txPck {s : State} (h : s.phase = .txPck) :
    s.positionInBounds ↔ s.bcnt.toNat < 4 ∧ (metaSize s.txm).toNat ≤ s.params.maxPayload := by
  simp only [State.positionInBounds, h]

theorem position_txEnd {s : State} (h : s.phase = .txEnd) :
    s.positionInBounds ↔ s.bitcnt = 0 ∧ s.bcnt = 0 := by
  simp only [State.positionInBounds, h]

theorem bcnt_succ_le (b : BitVec 17) : (b + 1).toNat ≤ b.toNat + 1 := by
  rw [BitVec.toNat_add]
  exact Nat.mod_le _ _

/-- Counting one octet keeps the count below a bound it does not reach (R34). -/
theorem bcnt_succ_lt {b : BitVec 17} {n : Nat} (h : b.toNat + 1 < n) : (b + 1).toNat < n :=
  (bcnt_succ_le b).trans_lt h

/-- The index of a block stays below `PLEN` while the block is not complete (R30). -/
theorem idx_succ_lt {i n : BitVec 8} (h : i < n) (hne : i + 1 ≠ n) : i + 1 < n := by
  bv_omega

/-- One octet more received is one cell more of `STAGE` written (43_frame_rx.md R208). -/
theorem staged_write {m : Memory} {b : BitVec 17} {n : Nat} (o : Octet)
    (h : ∀ i, i < b.toNat → i < n → (Memory.get? m i).isSome) :
    ∀ i, i < (b + 1).toNat → i < n → (Memory.get? (Memory.write m b.toNat o) i).isSome := by
  intro i hi hn
  rcases Nat.lt_succ_iff_lt_or_eq.1 (hi.trans_le (bcnt_succ_le b)) with hlt | rfl
  · exact Memory.isSome_get?_write o (h i hlt hn)
  · rw [Memory.get?_write_self]
    rfl

theorem plen_pos {n : BitVec 8} (h : n ≠ 0) : 0 < n := by
  bv_omega

/-! ## RESET, the ports and the refusals -/

theorem State.Inv.takeEvent {s : State} (hI : s.Inv) (rest : List PortEvent) (u : Level) :
    State.Inv { s with inputs := rest, lineIn := u } := { hI with }

theorem takeReset_inv {s : State} (h : s.params.wf) : s.takeReset.Inv where
  params := h
  plen := Nat.zero_le _
  patLength := List.length_replicate
  mbufLength := List.length_replicate
  publen := Nat.zero_le _
  txbuf := ⟨List.Pairwise.nil, by simp⟩
  stage := ⟨List.Pairwise.nil, by simp⟩
  pub := ⟨List.Pairwise.nil, by simp⟩
  published := by simp
  direction := rfl
  outcome := by simp
  failReason := by simp
  undecided := by simp
  described := by simp
  errorCode := by simp
  configured := by simp [State.busy]
  position := position_idle rfl

theorem State.Inv.refuse {s : State} (hI : s.Inv) {code : ErrorCode} (hc : code ≠ .none) :
    (s.refuse code).Inv :=
  { hI with
    errorCode := by
      refine iff_of_true rfl ?_
      rw [State.refuse_ecode]
      split
      case isTrue hrec => exact hI.errorCode.1 hrec
      case isFalse => exact hc }

/-! ## The engine, by what a rule leaves (42_frame_tx.md, 43_frame_rx.md) -/

/-- A rule that goes on with a send moves the position and drives the line; the send stays a send. -/
theorem State.Inv.sendGoesOn {s : State} (hI : s.Inv) (hs : s.txBusy = true) {acc : BitVec 32} {p : Phase}
    {idx : BitVec 8} {bitcnt : BitVec 3} {bcnt : BitVec 17} {lineOut : Level}
    (hp : State.txBusy { s with phase := p } = true)
    (hpos : State.positionInBounds
      { s with acc := acc, phase := p, idx := idx, bitcnt := bitcnt, bcnt := bcnt, lineOut := lineOut, rsp := 0 }) :
    State.Inv
      { s with acc := acc, phase := p, idx := idx, bitcnt := bitcnt, bcnt := bcnt, lineOut := lineOut, rsp := 0 } :=
  { hI with
    direction := hI.direction.trans (hs.trans hp.symm)
    undecided := fun h => absurd ((txBusy_of_rxBusy h).symm.trans hp) Bool.false_ne_true
    configured := fun _ => hI.configured (busy_of_txBusy hs)
    position := hpos }

/-- A rule that goes on with a read moves the position and fills the receiver's registers; the read
stays a read, and its outcome stays undecided. -/
theorem State.Inv.readGoesOn {s : State} (hI : s.Inv) (hs : s.rxBusy = true) {acc : BitVec 32} {p : Phase}
    {idx : BitVec 8} {mbuf : List Level} {shreg : Octet} {bitcnt : BitVec 3} {bcnt : BitVec 17}
    {hdr rxm : MetaRecord} {rxck : Digest} {stage : Memory}
    (hp : State.rxBusy { s with phase := p } = true) (hmbuf : mbuf.length = s.mbuf.length)
    (hstage : Memory.inBounds stage s.params.maxPayload)
    (hpos : State.positionInBounds
      { s with acc := acc, phase := p, idx := idx, mbuf := mbuf, shreg := shreg, bitcnt := bitcnt, bcnt := bcnt,
               hdr := hdr, rxm := rxm, rxck := rxck, stage := stage, rsp := 0 }) :
    State.Inv
      { s with acc := acc, phase := p, idx := idx, mbuf := mbuf, shreg := shreg, bitcnt := bitcnt, bcnt := bcnt,
               hdr := hdr, rxm := rxm, rxck := rxck, stage := stage, rsp := 0 } :=
  have ⟨hok, hfail⟩ := hI.undecided hs
  { hI with
    mbufLength := hmbuf.trans hI.mbufLength
    stage := hstage
    direction := hI.direction.trans ((txBusy_of_rxBusy hs).trans (txBusy_of_rxBusy hp).symm)
    undecided := fun _ => ⟨hok, hfail⟩
    described := fun h => absurd (hok.symm.trans h) Bool.false_ne_true
    configured := fun _ => hI.configured (busy_of_rxBusy hs)
    position := hpos }

/-- A rule that fails a read records the reason and leaves for `IDLE` (60_exceptions.md R262). -/
theorem State.Inv.readFails {s : State} (hI : s.Inv) (hs : s.rxBusy = true) {shreg : Octet} {bitcnt : BitVec 3}
    {bcnt : BitVec 17} {rxm : MetaRecord} {rxck : Digest} {r : Reason} (hr : r ≠ .none) :
    State.Inv
      { s with phase := .idle, shreg := shreg, bitcnt := bitcnt, bcnt := bcnt, rxm := rxm, rxck := rxck,
               fail := true, reason := r, rsp := 0 } :=
  have ⟨hok, _⟩ := hI.undecided hs
  { hI with
    direction := hI.direction.trans (txBusy_of_rxBusy hs)
    outcome := fun h => absurd (hok.symm.trans h.1) Bool.false_ne_true
    failReason := iff_of_true rfl hr
    undecided := fun h => absurd h Bool.false_ne_true
    described := fun h => absurd (hok.symm.trans h) Bool.false_ne_true
    configured := fun h => absurd h Bool.false_ne_true
    position := position_idle rfl }

/-- Publication makes exactly the received cells of `PUB` readable (43_frame_rx.md R211). -/
theorem State.Inv.readSucceeds {s : State} (hI : s.Inv) (h : s.phase = .rxPayload) {shreg : Octet}
    {bitcnt : BitVec 3} {bcnt : BitVec 17} {rxck : Digest} :
    State.Inv
      { s with shreg := shreg, bitcnt := bitcnt, rxck := rxck, bcnt := bcnt,
               pub := Memory.adopt s.pub s.rxSize (s.cell .stage), publen := metaSize s.rxm, ok := true,
               phase := .idle, rsp := 0 } :=
  have hs : s.rxBusy = true := rxBusy_of_phase h
  have ⟨_, hfail⟩ := hI.undecided hs
  have ⟨hsize, _, _⟩ := (position_rxPayload h).1 hI.position
  { hI with
    publen := hsize
    pub := Memory.adopt_inBounds _ hI.pub hsize
    published := fun i hi => by
      rw [Memory.get?_adopt_of_lt s.pub (s.cell .stage) (show i < s.rxSize from hi)]
      rfl
    direction := hI.direction.trans (txBusy_of_rxBusy hs)
    outcome := fun h => absurd (hfail.symm.trans h.2) Bool.false_ne_true
    undecided := fun h => absurd h Bool.false_ne_true
    described := fun _ => rfl
    configured := fun h => absurd h Bool.false_ne_true
    position := position_idle rfl }

/-- Every rule of the engine keeps the invariant: the position it leaves is in bounds, and the outcome
of a read is decided at its end alone. -/
theorem StepEffect.inv {c : Level} {s t : State} (hI : s.Inv) (h : StepEffect c s t) : t.Inv := by
  have hpos := hI.position
  cases h with
  | refused h => exact hI.refuse (by decide)
  | stoppedSync h hc => exact hI.readFails (rxBusy_of_phase h) (by decide)
  | stopped h hc =>
    rcases h with h | h <;> exact hI.readFails (rxBusy_of_phase h) (by decide)
  | sampled h hc hi hp =>
    obtain ⟨hidx, hbit, hcnt⟩ := (position_rxSync h).1 hpos
    exact hI.readGoesOn (rxBusy_of_phase h) (rxBusy_of_phase h) List.length_set hI.stage
      (Iff.mpr (position_rxSync h) ⟨idx_succ_lt hidx hp, hbit, hcnt⟩)
  | mismatched h hc hi hp hm =>
    obtain ⟨hidx, hbit, hcnt⟩ := (position_rxSync h).1 hpos
    exact hI.readGoesOn (rxBusy_of_phase h) (rxBusy_of_phase h) List.length_set hI.stage
      (Iff.mpr (position_rxSync h) ⟨by bv_omega, hbit, hcnt⟩)
  | matched h hc hi hp hm =>
    exact hI.readGoesOn (rxBusy_of_phase h) rfl List.length_set hI.stage ((position_rxHeader rfl).2 (Nat.succ_pos _))
  | shifted h hc hb =>
    rcases h with h | h
    · exact hI.readGoesOn (rxBusy_of_phase h) (rxBusy_of_phase h) rfl hI.stage
        (Iff.mpr (position_rxHeader h) ((position_rxHeader h).1 hpos))
    · exact hI.readGoesOn (rxBusy_of_phase h) (rxBusy_of_phase h) rfl hI.stage
        (Iff.mpr (position_rxPayload h) ((position_rxPayload h).1 hpos))
  | headerOctet h hc hb hn =>
    exact hI.readGoesOn (rxBusy_of_phase h) (rxBusy_of_phase h) rfl hI.stage
      (Iff.mpr (position_rxHeader h) (bcnt_succ_lt (by omega)))
  | headerSumOctet h hc hb hl hn =>
    exact hI.readGoesOn (rxBusy_of_phase h) (rxBusy_of_phase h) rfl hI.stage
      (Iff.mpr (position_rxHeader h) (bcnt_succ_lt (by omega)))
  | headerCorrupt h hc hb hn hk => exact hI.readFails (rxBusy_of_phase h) (by decide)
  | headerOversize h hc hb hn hk hm => exact hI.readFails (rxBusy_of_phase h) (by decide)
  | headerVerified h hc hb hn hk hm =>
    exact hI.readGoesOn (rxBusy_of_phase h) rfl rfl hI.stage
      ((position_rxPayload rfl).2 ⟨hm, Nat.succ_pos _, fun i hi => absurd hi (Nat.not_lt_zero i)⟩)
  | payloadOctet h hc hb hn hm =>
    obtain ⟨hsize, -, hstaged⟩ := (position_rxPayload h).1 hpos
    have hlt : s.bcnt.toNat + 1 < s.rxSize + 4 := by omega
    exact hI.readGoesOn (rxBusy_of_phase h) (rxBusy_of_phase h) rfl (Memory.write_inBounds _ hI.stage hm)
      (Iff.mpr (position_rxPayload h) ⟨hsize, bcnt_succ_lt hlt, staged_write _ hstaged⟩)
  | payloadSumOctet h hc hb hl hn =>
    obtain ⟨hsize, -, hstaged⟩ := (position_rxPayload h).1 hpos
    have hlt : s.bcnt.toNat + 1 < s.rxSize + 4 := by omega
    exact hI.readGoesOn (rxBusy_of_phase h) (rxBusy_of_phase h) rfl hI.stage
      (Iff.mpr (position_rxPayload h) ⟨hsize, bcnt_succ_lt hlt, fun i _ hi => hstaged i (lt_of_lt_of_le hi hl) hi⟩)
  | payloadCorrupt h hc hb hn hk => exact hI.readFails (rxBusy_of_phase h) (by decide)
  | payloadVerified h hc hb hn hk => exact hI.readSucceeds h
  | preambleElement u h hu hp =>
    obtain ⟨hidx, hbit, hcnt, hsize⟩ := (position_txPre h).1 hpos
    exact hI.sendGoesOn (txBusy_of_phase h) (txBusy_of_phase h)
      (Iff.mpr (position_txPre h) ⟨idx_succ_lt hidx hp, hbit, hcnt, hsize⟩)
  | preambleEnd u h hu hp =>
    obtain ⟨-, -, -, hsize⟩ := (position_txPre h).1 hpos
    exact hI.sendGoesOn (txBusy_of_phase h) rfl ((position_txMeta rfl).2 ⟨Nat.succ_pos _, hsize⟩)
  | metaBit o h ho hb =>
    exact hI.sendGoesOn (txBusy_of_phase h) (txBusy_of_phase h)
      (Iff.mpr (position_txMeta h) ((position_txMeta h).1 hpos))
  | metaOctet o h ho hb hn =>
    obtain ⟨-, hsize⟩ := (position_txMeta h).1 hpos
    exact hI.sendGoesOn (txBusy_of_phase h) (txBusy_of_phase h)
      (Iff.mpr (position_txMeta h) ⟨bcnt_succ_lt (by omega), hsize⟩)
  | metaEnd o h ho hb hn =>
    obtain ⟨-, hsize⟩ := (position_txMeta h).1 hpos
    exact hI.sendGoesOn (txBusy_of_phase h) rfl ((position_txMck rfl).2 ⟨Nat.succ_pos _, hsize⟩)
  | metaSumBit o h ho hb =>
    exact hI.sendGoesOn (txBusy_of_phase h) (txBusy_of_phase h)
      (Iff.mpr (position_txMck h) ((position_txMck h).1 hpos))
  | metaSumOctet o h ho hb hn =>
    obtain ⟨-, hsize⟩ := (position_txMck h).1 hpos
    exact hI.sendGoesOn (txBusy_of_phase h) (txBusy_of_phase h)
      (Iff.mpr (position_txMck h) ⟨bcnt_succ_lt (by omega), hsize⟩)
  | metaSumEnd o h ho hb hn =>
    obtain ⟨-, hsize⟩ := (position_txMck h).1 hpos
    by_cases h0 : metaSize s.txm = 0
    · rw [if_pos h0]
      exact hI.sendGoesOn (txBusy_of_phase h) rfl ((position_txPck rfl).2 ⟨Nat.succ_pos _, hsize⟩)
    · rw [if_neg h0]
      exact hI.sendGoesOn (txBusy_of_phase h) rfl
        ((position_txPay rfl).2 ⟨BitVec.toNat_pos_of_ne_zero h0, hsize⟩)
  | payBit h ho hb =>
    exact hI.sendGoesOn (txBusy_of_phase h) (txBusy_of_phase h)
      (Iff.mpr (position_txPay h) ((position_txPay h).1 hpos))
  | payOctet h ho hb hn =>
    obtain ⟨hlt, hsize⟩ := (position_txPay h).1 hpos
    have hle : (s.bcnt + 1).toNat ≤ (metaSize s.txm).toNat := (bcnt_succ_le s.bcnt).trans hlt
    exact hI.sendGoesOn (txBusy_of_phase h) (txBusy_of_phase h)
      (Iff.mpr (position_txPay h) ⟨lt_of_le_of_ne hle hn, hsize⟩)
  | payEnd h ho hb hn =>
    obtain ⟨-, hsize⟩ := (position_txPay h).1 hpos
    exact hI.sendGoesOn (txBusy_of_phase h) rfl ((position_txPck rfl).2 ⟨Nat.succ_pos _, hsize⟩)
  | paySumBit o h ho hb =>
    exact hI.sendGoesOn (txBusy_of_phase h) (txBusy_of_phase h)
      (Iff.mpr (position_txPck h) ((position_txPck h).1 hpos))
  | paySumOctet o h ho hb hn =>
    obtain ⟨-, hsize⟩ := (position_txPck h).1 hpos
    exact hI.sendGoesOn (txBusy_of_phase h) (txBusy_of_phase h)
      (Iff.mpr (position_txPck h) ⟨bcnt_succ_lt (by omega), hsize⟩)
  | paySumEnd o h ho hb hn =>
    exact hI.sendGoesOn (txBusy_of_phase h) rfl ((position_txEnd rfl).2 ⟨rfl, rfl⟩)
  | released h =>
    exact { hI with
      direction := rfl
      undecided := fun h => absurd h Bool.false_ne_true
      configured := fun h => absurd h Bool.false_ne_true
      position := position_idle rfl }

/-! ## The commands -/

/-- In `IDLE` nothing is in progress, so that a command may write the configuration and the buffers as
their own ranges allow; `POLL` and `SEND` start at a position in bounds. -/
theorem CommandEffect.inv {i : Instr} {s t : State} (hI : s.Inv) (h : CommandEffect s i t) : t.Inv := by
  cases h with
  | refused _ code hcode => exact hI.refuse hcode
  | answered _ v => exact { hI with }
  | errclr => exact { hI with errorCode := by simp }
  | ckclr h => exact { hI with }
  | ckadd d h => exact { hI with }
  | plen n h hn =>
    exact { hI with
      plen := (Nat.mod_le _ _).trans hn.2
      configured := fun hb => absurd (hb.symm.trans (busy_of_phase h)) (by decide)
      position := position_idle h }
  | pset j b h hj => exact { hI with patLength := List.length_set.trans hI.patLength }
  | mset j d h hj => exact { hI with position := position_idle h }
  | ptr b d => exact { hI with }
  | txwr d h hp => exact { hI with txbuf := Memory.write_inBounds d hI.txbuf hp }
  | rxrd h => exact { hI with }
  | poll h hp =>
    exact { hI with
      direction := rfl
      outcome := by simp [State.start, State.clearOutcome]
      failReason := by simp [State.start, State.clearOutcome]
      undecided := fun _ => ⟨rfl, rfl⟩
      described := by simp [State.start, State.clearOutcome]
      configured := fun _ => hp
      position := (position_rxSync rfl).2 ⟨plen_pos hp, rfl, rfl⟩ }
  | send h hp hm =>
    exact { hI with
      direction := rfl
      undecided := fun h => absurd h Bool.false_ne_true
      configured := fun _ => hp
      position := (position_txPre rfl).2 ⟨plen_pos hp, rfl, rfl, hm⟩ }
  | step c _ h => exact h.inv hI

/-- Settles O52, by cases on what a step can do: nothing, a `RESET`, a refusal or a command. -/
theorem everyStepKeepsTheInvariant : Obligations.EveryStepKeepsTheInvariant := by
  intro s t hI h
  obtain ⟨-, rfl⟩ | ⟨e, rest, -, hcase⟩ := step_cases h
  · exact hI
  · have hT := hI.takeEvent rest e.lineIn
    obtain ⟨-, -, rfl⟩ | ⟨-, rfl⟩ | ⟨w, d, -, -, -, rfl⟩ | ⟨w, i, -, -, -, hx⟩ := hcase
    · exact hT
    · exact takeReset_inv hT.params
    · exact hT.refuse (by decide)
    · exact (exec_next_effect hx).inv hT

end Sys2Proof.Machine
end

section
/-! What only some commands write: the error record, which `ERRCLR` and `RESET` alone clear (10_state.md
R41, 60_exceptions.md R286), and the published payload (10_state.md R28). -/

namespace Sys2Proof.Machine

/-! ## The error record -/

/-- A refusal keeps the cause recorded before it (60_exceptions.md R280). -/
theorem refuse_keeps_record {s : State} (code : ErrorCode) (hc : s.cmderr = true) :
    (s.refuse code).cmderr = true ∧ (s.refuse code).ecode = s.ecode :=
  ⟨rfl, if_pos hc⟩

theorem StepEffect.keeps_record {c : Level} {s t : State} (h : StepEffect c s t) (hc : s.cmderr = true) :
    t.cmderr = true ∧ t.ecode = s.ecode := by
  cases h with
  | refused h => exact refuse_keeps_record .state hc
  | _ => exact ⟨hc, rfl⟩

theorem CommandEffect.keeps_record {i : Instr} {s t : State} (h : CommandEffect s i t) (hi : i ≠ .errclr)
    (hc : s.cmderr = true) : t.cmderr = true ∧ t.ecode = s.ecode := by
  cases h with
  | refused _ code _ => exact refuse_keeps_record code hc
  | errclr => exact absurd rfl hi
  | step c _ h => exact h.keeps_record hc
  | _ => exact ⟨hc, rfl⟩

/-- `0x0100` is the only word of `ERRCLR` (30_encoding.md R94). -/
theorem eq_of_decode_errclr {w : CmdWord} (h : decode w = .ok .errclr) : w = 0x0100 := by
  suffices hf : fieldOp w = 0 ∧ fieldA w = 1 ∧ fieldD w = 0 by
    obtain ⟨hop, ha, hd⟩ := hf
    exact eq_of_fields (w := 0x0100) hop ha hd
  unfold decode decodeFields at h
  split at h
  case h_1 hop =>
    split_ifs at h with hnop herr
    · cases h
    · exact ⟨BitVec.eq_of_toNat_eq hop, herr⟩
  all_goals
    simp [formatZ, formatD, formatK, formatS, formatJD, formatJ, formatC, ite_eq_iff] at h

/-- Settles O27: a step that takes neither a `RESET` nor `ERRCLR` keeps the record by the effect of its
command. -/
theorem recordedRefusalStaysUntilErrclrOrReset : Obligations.RecordedRefusalStaysUntilErrclrOrReset := by
  intro s t h hc
  obtain ⟨-, rfl⟩ | ⟨e, rest, hin, hcase⟩ := step_cases h
  · exact .inl ⟨hc, rfl⟩
  · obtain ⟨-, -, rfl⟩ | ⟨hrst, -⟩ | ⟨w, d, -, -, -, rfl⟩ | ⟨w, i, -, hw, hd, hx⟩ := hcase
    · exact .inl ⟨hc, rfl⟩
    · exact .inr ⟨e, rest, hin, .inl hrst⟩
    · exact .inl (refuse_keeps_record .illegal hc)
    · by_cases hi : i = .errclr
      · subst hi
        exact .inr ⟨e, rest, hin, .inr (hw.trans (congrArg some (eq_of_decode_errclr hd)))⟩
      · exact .inl ((exec_next_effect hx).keeps_record hi hc)

/-! ## The published payload -/

/-- `t` ends the read of `s` with its payload published (43_frame_rx.md R211). -/
def publishes (s t : State) : Prop :=
  s.phase = .rxPayload ∧ t.phase = .idle ∧ t.ok = true ∧ t.publen = metaSize s.rxm ∧
    ∀ i, i < (metaSize s.rxm).toNat → t.cell .pub i = s.cell .stage i

theorem StepEffect.pub_kept_or_publishes {c : Level} {s t : State} (h : StepEffect c s t) :
    (t.pub = s.pub ∧ t.publen = s.publen) ∨ publishes s t := by
  cases h with
  | payloadVerified h hc hb hn hk =>
    exact .inr ⟨h, rfl, rfl, rfl, fun i hi => State.cell_of_get? (Memory.get?_adopt_of_lt s.pub (s.cell .stage) hi)⟩
  | _ => exact .inl ⟨rfl, rfl⟩

theorem CommandEffect.pub_kept_or_publishes {i : Instr} {s t : State} (h : CommandEffect s i t) :
    (t.pub = s.pub ∧ t.publen = s.publen) ∨ publishes s t := by
  cases h with
  | step c _ h => exact h.pub_kept_or_publishes
  | _ => exact .inl ⟨rfl, rfl⟩

/-- Settles O55, by cases on what a step can do: only a command publishes, and only the `RESET` clears. -/
theorem publishedPayloadChangesOnlyOnSuccess : Obligations.PublishedPayloadChangesOnlyOnSuccess := by
  intro s t h
  obtain ⟨-, rfl⟩ | ⟨e, rest, hin, hcase⟩ := step_cases h
  · exact .inl ⟨rfl, rfl⟩
  · obtain ⟨-, -, rfl⟩ | ⟨hrst, -⟩ | ⟨w, d, -, -, -, rfl⟩ | ⟨w, i, -, -, -, hx⟩ := hcase
    · exact .inl ⟨rfl, rfl⟩
    · exact .inr (.inl ⟨e, rest, hin, hrst⟩)
    · exact .inl ⟨rfl, rfl⟩
    · exact (exec_next_effect hx).pub_kept_or_publishes.imp_right .inr

end Sys2Proof.Machine
end

section
/-! Noninterference (10_state.md R25, R26, R50): the pointer, the level of `line_in` and `TXBUF` can be
exchanged under the rules that do not look at them, and the answer is the same up to the exchange. -/

namespace Sys2Proof.Machine

open Sys2Proof.Claims

/-! ## The engine (42_frame_tx.md, 43_frame_rx.md) -/

/-- `s` with the pointer, the line level and `TXBUF` exchanged: what the engine does not reach, but for
the sample of a read and the octets of `TX_PAY`. -/
def exchange (p : BitVec 16) (u : Level) (m : Memory) (s : State) : State :=
  { s with ptr := p, lineIn := u, txbuf := m }

section Rules

variable (p : BitVec 16) (u : Level) (m : Memory) (s : State)

theorem exchange_blockComplete :
    exchange p u m s.blockComplete = (exchange p u m s).blockComplete :=
  apply_ite (exchange p u m) (s.preambleMatches = true) (s.start .rxHeader) { s with idx := 0 }

theorem exchange_syncUnit (v : Level) :
    (s.syncUnit v).map (exchange p u m) = (exchange p u m s).syncUnit v := by
  unfold State.syncUnit
  dsimp only
  rw [apply_ite (Except.map _)]
  simp only [Except.map, apply_ite (exchange p u m), exchange_blockComplete]
  rfl

theorem exchange_headerVerified :
    exchange p u m s.headerVerified = (exchange p u m s).headerVerified := by
  unfold State.headerVerified
  dsimp only
  rw [apply_ite (exchange p u m)]
  rfl

theorem exchange_headerComplete :
    exchange p u m s.headerComplete = (exchange p u m s).headerComplete := by
  unfold State.headerComplete
  rw [apply_ite (exchange p u m), exchange_headerVerified]
  rfl

theorem exchange_headerCounted :
    exchange p u m s.headerCounted = (exchange p u m s).headerCounted := by
  unfold State.headerCounted
  dsimp only
  rw [apply_ite (exchange p u m), exchange_headerComplete]
  rfl

theorem exchange_headerOctet (o : Octet) :
    (s.headerOctet o).map (exchange p u m) = (exchange p u m s).headerOctet o := by
  unfold State.headerOctet
  rw [apply_ite (Except.map _), apply_ite (Except.map _)]
  simp only [Except.map, exchange_headerCounted]
  rfl

theorem exchange_payloadComplete :
    exchange p u m s.payloadComplete = (exchange p u m s).payloadComplete :=
  apply_ite (exchange p u m) (s.rxck ≠ digest s.acc) (s.failRead .integrityFailure) s.publish

theorem exchange_payloadCounted :
    exchange p u m s.payloadCounted = (exchange p u m s).payloadCounted := by
  unfold State.payloadCounted
  dsimp only
  rw [apply_ite (exchange p u m), exchange_payloadComplete]
  rfl

theorem exchange_payloadOctet (o : Octet) :
    (s.payloadOctet o).map (exchange p u m) = (exchange p u m s).payloadOctet o := by
  unfold State.payloadOctet
  rw [apply_ite (Except.map _), apply_ite (Except.map _), apply_ite (Except.map _)]
  simp only [Except.map, exchange_payloadCounted]
  rfl

theorem exchange_octetUnit (v : Level) :
    (s.octetUnit v).map (exchange p u m) = (exchange p u m s).octetUnit v := by
  unfold State.octetUnit
  dsimp only
  rw [apply_ite (Except.map _), apply_ite (Except.map _), exchange_headerOctet, exchange_payloadOctet]
  rfl

/-- A stop request samples nothing, and the sample is all that a read takes from outside (43_frame_rx.md
R201, R202). -/
theorem exchange_stepRx {c : Level} (hu : c = true → u = s.lineIn) :
    (stepRx c s).map (exchange p u m) = stepRx c (exchange p u m s) := by
  cases c with
  | false => rfl
  | true =>
    obtain rfl := hu rfl
    unfold stepRx
    rw [if_pos rfl, if_pos rfl, apply_ite (Except.map _), exchange_syncUnit, exchange_octetUnit]
    rfl

theorem exchange_driveBit (o : Octet) {f : State → State}
    (hf : ∀ t, exchange p u m (f t) = f (exchange p u m t)) :
    exchange p u m (s.driveBit o f) = (exchange p u m s).driveBit o f := by
  unfold State.driveBit
  rw [apply_ite (exchange p u m), hf]
  rfl

theorem exchange_absorbAtFirstBit (o : Octet) :
    exchange p u m (s.absorbAtFirstBit o) = (exchange p u m s).absorbAtFirstBit o :=
  apply_ite (exchange p u m) (s.bitcnt = 0) (s.absorb o) s

theorem exchange_endTxMeta : exchange p u m (endTxMeta s) = endTxMeta (exchange p u m s) :=
  apply_ite (exchange p u m) (s.bcnt = 6) { s with phase := .txMck, bcnt := 0 } s

theorem exchange_endTxMck : exchange p u m (endTxMck s) = endTxMck (exchange p u m s) :=
  apply_ite (exchange p u m) (s.bcnt = 4)
    { s with bcnt := 0, acc := 0, phase := if metaSize s.txm = 0 then .txPck else .txPay } s

theorem exchange_endTxPay : exchange p u m (endTxPay s) = endTxPay (exchange p u m s) :=
  apply_ite (exchange p u m) (s.bcnt.toNat = (metaSize s.txm).toNat) { s with phase := .txPck, bcnt := 0 } s

theorem exchange_endTxPck : exchange p u m (endTxPck s) = endTxPck (exchange p u m s) :=
  apply_ite (exchange p u m) (s.bcnt = 4) { s with phase := .txEnd, bcnt := 0 } s

theorem exchange_stepTxPre : (stepTxPre s).map (exchange p u m) = stepTxPre (exchange p u m s) := by
  unfold stepTxPre
  dsimp only [exchange]
  split
  · rfl
  · rw [apply_ite (Except.map _)]
    rfl

theorem exchange_stepTxMeta : (stepTxMeta s).map (exchange p u m) = stepTxMeta (exchange p u m s) := by
  unfold stepTxMeta
  dsimp only [exchange]
  split
  · rfl
  · rw [Except.map, exchange_driveBit _ _ _ _ _ (exchange_endTxMeta p u m), exchange_absorbAtFirstBit]
    rfl

theorem exchange_stepTxMck : (stepTxMck s).map (exchange p u m) = stepTxMck (exchange p u m s) := by
  unfold stepTxMck
  dsimp only [exchange]
  split
  · rfl
  · exact congrArg Except.ok (exchange_driveBit p u m s _ (exchange_endTxMck p u m))

theorem exchange_stepTxPay :
    (stepTxPay s).map (exchange p u s.txbuf) = stepTxPay (exchange p u s.txbuf s) := by
  unfold stepTxPay
  rw [apply_ite (Except.map _)]
  simp only [Except.map, exchange_driveBit _ _ _ _ _ (exchange_endTxPay p u s.txbuf), exchange_absorbAtFirstBit]
  rfl

theorem exchange_stepTxPck : (stepTxPck s).map (exchange p u m) = stepTxPck (exchange p u m s) := by
  unfold stepTxPck
  dsimp only [exchange]
  split
  · rfl
  · exact congrArg Except.ok (exchange_driveBit p u m s _ (exchange_endTxPck p u m))

theorem onNext_finishStep (r : Except Fault State) :
    onNext (exchange p u m) (finishStep r) = finishStep (r.map (exchange p u m)) := by
  cases r <;> rfl

/-- `STEP` answers the same up to the exchange, when the level it samples and the `TXBUF` it sends from
are kept. -/
theorem execStep_exchange {c : Level} (hu : c = true → s.rxBusy = true → u = s.lineIn)
    (hm : s.phase = .txPay → m = s.txbuf) :
    execStep c (exchange p u m s) = onNext (exchange p u m) (execStep c s) := by
  have hp : (exchange p u m s).phase = s.phase := rfl
  unfold execStep
  rw [hp]
  cases h : s.phase <;> dsimp only
  case idle => rfl
  case rxSync => rw [onNext_finishStep, exchange_stepRx _ _ _ _ fun hc => hu hc (rxBusy_of_phase h)]
  case rxHeader => rw [onNext_finishStep, exchange_stepRx _ _ _ _ fun hc => hu hc (rxBusy_of_phase h)]
  case rxPayload => rw [onNext_finishStep, exchange_stepRx _ _ _ _ fun hc => hu hc (rxBusy_of_phase h)]
  case txPre => rw [onNext_finishStep, exchange_stepTxPre]
  case txMeta => rw [onNext_finishStep, exchange_stepTxMeta]
  case txMck => rw [onNext_finishStep, exchange_stepTxMck]
  case txPay => rw [hm h, onNext_finishStep, exchange_stepTxPay]
  case txPck => rw [onNext_finishStep, exchange_stepTxPck]
  case txEnd => rfl

end Rules

/-! ## The other commands -/

/-- Whether the command looks at `PTR` or writes it (10_state.md R25; `RDSR 6` and `RDSR 7` show it, R44). -/
def usesPtr : Instr → Bool
  | .ptr _ _ => true
  | .txwr _ => true
  | .rxrd => true
  | .rdsr _ => true
  | _ => false

section Checks

variable (f g : State → State) {s s' t t' : State}

/-- What two states make of a check of the range is alike, seen through `f` and `g`, when the refusals
and the executed states are (60_exceptions.md R283). -/
theorem whenInRange_congr (b : Bool) (hr : f (s'.refuse .range) = g (s.refuse .range)) (ht : f t' = g t) :
    f (s'.whenInRange b t') = g (s.whenInRange b t) := by
  cases b with
  | false => exact hr
  | true => exact ht

/-- The same for a check of the phase (R282). -/
theorem whenIdle_congr (hp : s'.phase = s.phase) (hr : f (s'.refuse .state) = g (s.refuse .state))
    (ht : f t' = g t) : f (s'.whenIdle t') = g (s.whenIdle t) := by
  by_cases h : s.phase = .idle
  · rw [State.whenIdle_of_idle t h, State.whenIdle_of_idle t' (hp.trans h), ht]
  · rw [State.whenIdle_of_busy t h, State.whenIdle_of_busy t' (hp ▸ h), hr]

/-- The same for both checks, in the order of R282 to R284. -/
theorem checked_congr (b : Bool) (hp : s'.phase = s.phase) (hr : ∀ c, f (s'.refuse c) = g (s.refuse c))
    (ht : f t' = g t) : f (s'.whenIdle (s'.whenInRange b t')) = g (s.whenIdle (s.whenInRange b t)) :=
  whenIdle_congr f g hp (hr .state) (whenInRange_congr f g b (hr .range) ht)

end Checks

/-- A command that does not use `PTR` answers the same up to the exchange, when what a `STEP` samples and
sends is kept. -/
theorem exec_exchange {i : Instr} {p : BitVec 16} {u : Level} {m : Memory} {s : State} (hi : usesPtr i = false)
    (hu : i = .step true → s.rxBusy = true → u = s.lineIn)
    (hm : ∀ c, i = .step c → s.phase = .txPay → m = s.txbuf) :
    exec i (exchange p u m s) = onNext (exchange p u m) (exec i s) := by
  cases i with
  | nop | errclr | ckrd => rfl
  | mrd j =>
    simp only [exec, execMrd, exchange]
    split <;> rfl
  | ckclr | ckadd => exact congrArg Host.Outcome.next (whenIdle_congr id (exchange p u m) rfl rfl rfl)
  | plen | pset | mset | poll | send =>
    exact congrArg Host.Outcome.next (checked_congr id (exchange p u m) _ rfl (fun _ => rfl) rfl)
  | step c => exact execStep_exchange p u m s (fun hc => hu (congrArg Instr.step hc)) (hm c rfl)
  | ptr | txwr | rxrd | rdsr => cases hi

/-- The engine writes none of the three. -/
theorem StepEffect.exchange_eq {c : Level} {s t : State} (h : StepEffect c s t) :
    exchange s.ptr s.lineIn s.txbuf t = t := by
  cases h <;> rfl

/-- Nor does a command that does not use `PTR`. -/
theorem CommandEffect.exchange_eq {i : Instr} {s t : State} (hi : usesPtr i = false) (h : CommandEffect s i t) :
    exchange s.ptr s.lineIn s.txbuf t = t := by
  cases h with
  | ptr | txwr | rxrd => cases hi
  | step c _ h => exact h.exchange_eq
  | _ => rfl

/-! ## One item exchanged -/

theorem onNext_congr {f g : State → State} {o : Host.Outcome State Fault Refusal}
    (h : ∀ t, o = .next t → f t = g t) : onNext f o = onNext g o := by
  cases o with
  | next t => exact congrArg Host.Outcome.next (h t rfl)
  | fault x => rfl
  | refused x => rfl

theorem onNext_onNext (f g : State → State) (o : Host.Outcome State Fault Refusal) :
    onNext f (onNext g o) = onNext (fun t => f (g t)) o := by
  cases o <;> rfl

theorem exec_ptr {i : Instr} (s : State) (p : BitVec 16) (hi : usesPtr i = false) :
    exec i { s with ptr := p } = onNext (fun t => { t with ptr := p }) (exec i s) :=
  (exec_exchange hi (fun _ _ => rfl) fun _ _ _ => rfl).trans <| onNext_congr fun _ ht =>
    congrArg (fun t : State => { t with ptr := p }) ((exec_next_effect ht).exchange_eq hi)

theorem exec_lineIn {i : Instr} {s : State} (u : Level) (hi : usesPtr i = false)
    (h : ¬(i = .step true ∧ s.rxBusy = true)) :
    exec i { s with lineIn := u } = onNext (fun t => { t with lineIn := u }) (exec i s) :=
  (exec_exchange hi (fun hc hs => absurd ⟨hc, hs⟩ h) fun _ _ _ => rfl).trans <| onNext_congr fun _ ht =>
    congrArg (fun t : State => { t with lineIn := u }) ((exec_next_effect ht).exchange_eq hi)

theorem exec_txbuf {i : Instr} {s : State} (m : Memory) (hi : usesPtr i = false)
    (h : ¬((∃ c, i = .step c) ∧ s.phase = .txPay)) :
    exec i { s with txbuf := m } = onNext (fun t => { t with txbuf := m }) (exec i s) :=
  (exec_exchange hi (fun _ _ => rfl) fun c hc hp => absurd ⟨⟨c, hc⟩, hp⟩ h).trans <| onNext_congr fun _ ht =>
    congrArg (fun t : State => { t with txbuf := m }) ((exec_next_effect ht).exchange_eq hi)

/-! ## The statements settled -/

/-- Settles O57: the starts and `STEP` do not use `PTR`, and the writers are read off the effects. -/
theorem pointerIsOutOfTheEnginesReach : Obligations.PointerIsOutOfTheEnginesReach := by
  refine ⟨fun i s p hi => exec_ptr s p ?_, fun i s t h hne => ?_⟩
  · obtain rfl | rfl | ⟨c, rfl⟩ := hi <;> rfl
  · cases exec_next_effect h with
    | ptr b d => exact .inl ⟨b, d, rfl⟩
    | txwr d _ _ => exact .inr (.inl ⟨d, rfl⟩)
    | rxrd _ => exact .inr (.inr rfl)
    | step c _ h => exact absurd (congrArg State.ptr h.exchange_eq).symm hne
    | _ => exact absurd rfl hne

/-- Settles O58: the commands that use `PTR` do not look at the level either. -/
theorem lineIsSampledOnlyInAReadStep : Obligations.LineIsSampledOnlyInAReadStep := by
  intro i s u h
  cases i with
  | ptr => rfl
  | txwr d =>
    exact congrArg Host.Outcome.next
      (checked_congr id (fun t : State => { t with lineIn := u }) _ rfl (fun _ => rfl) rfl)
  | rxrd =>
    exact congrArg Host.Outcome.next
      (whenInRange_congr id (fun t : State => { t with lineIn := u }) _ rfl rfl)
  | rdsr r =>
    have hv : State.statusRegister { s with lineIn := u } r = s.statusRegister r := rfl
    simp only [exec, execRdsr, hv]
    split <;> rfl
  | _ => exact exec_lineIn u rfl h

/-- The state with `TXBUF` forgotten. -/
def withoutTxbuf (s : State) : State := { s with txbuf := [] }

/-- Outside `TX_PAY` every command answers the same but for `TXBUF`, which `TXWR` alone writes. -/
theorem exec_txbuf_forgotten {i : Instr} {s : State} (m : Memory)
    (h : ¬((∃ c, i = .step c) ∧ s.phase = .txPay)) :
    onNext withoutTxbuf (exec i { s with txbuf := m }) = onNext withoutTxbuf (exec i s) := by
  cases i with
  | ptr => rfl
  | txwr d =>
    exact congrArg Host.Outcome.next (checked_congr withoutTxbuf withoutTxbuf _ rfl (fun _ => rfl) rfl)
  | rxrd => exact congrArg Host.Outcome.next (whenInRange_congr withoutTxbuf withoutTxbuf _ rfl rfl)
  | rdsr r =>
    have hv : State.statusRegister { s with txbuf := m } r = s.statusRegister r := rfl
    simp only [exec, execRdsr, hv]
    split <;> rfl
  | _ =>
    rw [exec_txbuf m rfl h, onNext_onNext]
    rfl

/-- `STEP` in `TX_PAY` answers 0 or stops, whatever `TXBUF` holds (42_frame_tx.md R171, R178). -/
theorem execStep_txPay_rsp {c : Level} {s : State} (r : State) (h : s.phase = .txPay) :
    onNext (fun t => { r with rsp := t.rsp }) (execStep c s) =
      if s.bcnt.toNat < s.params.maxPayload then .next { r with rsp := 0 }
      else .fault (.outsideArray .txbuf s.bcnt.toNat) := by
  simp only [execStep, h, stepTxPay]
  split <;> rfl

/-- Settles O59: the response outside `TX_PAY` is part of the first claim, and in `TX_PAY` it is 0. -/
theorem transmitBufferIsReadByTheSendAlone : Obligations.TransmitBufferIsReadByTheSendAlone := by
  refine ⟨fun i s m h => exec_txbuf_forgotten m h, fun i s m => ?_⟩
  by_cases h : (∃ c, i = .step c) ∧ s.phase = .txPay
  · obtain ⟨⟨c, rfl⟩, hp⟩ := h
    exact (execStep_txPay_rsp (s := { s with txbuf := m }) s hp).trans (execStep_txPay_rsp s hp).symm
  · have hs := congrArg (onNext fun t => { s with rsp := t.rsp }) (exec_txbuf_forgotten m h)
    rw [onNext_onNext, onNext_onNext] at hs
    exact hs

end Sys2Proof.Machine
end

section
/-! The configuration of an operation in progress (20_memory.md R82): what its rules read beside the state
of the engine is written in `IDLE` alone. -/

namespace Sys2Proof.Machine

/-- `t` has the preamble, the record and the payload to transmit of `s`. -/
def sameConfiguration (s t : State) : Prop :=
  t.plen = s.plen ∧ t.pat = s.pat ∧ t.txm = s.txm ∧ t.txbuf = s.txbuf

theorem StepEffect.keeps_configuration {c : Level} {s t : State} (h : StepEffect c s t) :
    sameConfiguration s t := by
  cases h <;> exact ⟨rfl, rfl, rfl, rfl⟩

/-- Each writer of the configuration executes in `IDLE` alone (60_exceptions.md R282). -/
theorem CommandEffect.keeps_configuration {i : Instr} {s t : State} (h : CommandEffect s i t)
    (hb : s.phase ≠ .idle) : sameConfiguration s t := by
  cases h with
  | plen _ h _ | pset _ _ h _ | mset _ _ h _ | txwr _ h _ => exact absurd h hb
  | step c _ h => exact h.keeps_configuration
  | _ => exact ⟨rfl, rfl, rfl, rfl⟩

/-- Settles O56, by cases on what a step without a `RESET` can do; the writers are refused by the check of
their phase. -/
theorem configurationIsConstantWhileBusy : Obligations.ConfigurationIsConstantWhileBusy := by
  intro s hb
  refine ⟨fun t hrst h => ?_, fun n i j b d => ?_⟩
  · obtain ⟨-, rfl⟩ | ⟨e, rest, hin, hcase⟩ := step_cases h
    · exact ⟨rfl, rfl, rfl, rfl⟩
    · obtain ⟨-, -, rfl⟩ | ⟨hr, -⟩ | ⟨w, d, -, -, -, rfl⟩ | ⟨w, i, -, -, -, hx⟩ := hcase
      · exact ⟨rfl, rfl, rfl, rfl⟩
      · exact absurd (hr.symm.trans (hrst e rest hin)) (by decide)
      · exact ⟨rfl, rfl, rfl, rfl⟩
      · exact (exec_next_effect hx).keeps_configuration hb
  · have refused (t : State) :
        (.next (s.whenIdle t) : Host.Outcome State Fault Refusal) = .next (s.refuse .state) :=
      congrArg Host.Outcome.next (State.whenIdle_of_busy t hb)
    exact ⟨refused _, refused _, refused _, refused _⟩

end Sys2Proof.Machine
end

section
/-! A send, unit by unit (42_frame_tx.md R172 to R181): each segment of the frame is driven by the `STEP`s
of its phase. -/

namespace Sys2Proof.Machine

/-! ## Runs over a list -/

/-- A relation that composes along the units, once it holds for what each element of a list stands for,
holds for the whole list. -/
theorem run_flatMap {R : State → List Level → State → Prop} {α : Type} {g : α → List Level}
    (hnil : ∀ s, R s [] s) (happ : ∀ {s t u us vs}, R s us t → R t vs u → R s (us ++ vs) u)
    (xs : List α) (S : Nat → State) (h : ∀ k x, xs[k]? = some x → R (S k) (g x) (S (k + 1))) :
    R (S 0) (xs.flatMap g) (S xs.length) := by
  induction xs generalizing S with
  | nil => exact hnil _
  | cons x xs ih => exact happ (h 0 x rfl) (ih (fun k => S (k + 1)) fun k y hy => h (k + 1) y hy)

/-! ## Driving -/

/-- `STEP`s lead from `s` to `t` and drive the units `us`, whatever their continue flags (R173), the level
and the response that `s` starts with. -/
def Drives (s : State) (us : List Level) (t : State) : Prop :=
  ∀ (cs : List Level) (l : Level) (v : Octet), cs.length = us.length →
    ∃ l' v', driveUnits cs { s with lineOut := l, rsp := v } = some (us, { t with lineOut := l', rsp := v' })

theorem Drives.nil (s : State) : Drives s [] s := by
  intro cs l v h
  obtain rfl := List.eq_nil_of_length_eq_zero h
  exact ⟨l, v, rfl⟩

theorem Drives.append {s t u : State} {us vs : List Level} (h : Drives s us t) (k : Drives t vs u) :
    Drives s (us ++ vs) u := by
  intro cs l v hcs
  rw [List.length_append] at hcs
  obtain ⟨l₁, v₁, h₁⟩ := h (cs.take us.length) l v (by rw [List.length_take]; omega)
  obtain ⟨l₂, v₂, h₂⟩ := k (cs.drop us.length) l₁ v₁ (by rw [List.length_drop]; omega)
  refine ⟨l₂, v₂, ?_⟩
  rw [← List.take_append_drop us.length cs, driveUnits_append, h₁]
  simp only [Option.bind_some, h₂, Option.map_some]

/-- The segments of a send, octet by octet or element by element. -/
theorem Drives.flatMap {α : Type} {g : α → List Level} (xs : List α) (S : Nat → State)
    (h : ∀ k x, xs[k]? = some x → Drives (S k) (g x) (S (k + 1))) :
    Drives (S 0) (xs.flatMap g) (S xs.length) :=
  run_flatMap Drives.nil Drives.append xs S h

theorem Drives.unit {s t : State} {u : Level}
    (h : ∀ c l v, StepEffect c { s with lineOut := l, rsp := v } { t with lineOut := u, rsp := 0 }) :
    Drives s [u] t := by
  intro cs l v hcs
  obtain ⟨c, rfl⟩ := List.length_eq_one_iff.1 hcs
  refine ⟨u, 0, ?_⟩
  simp only [driveUnits, exec, execStep_of_effect (h c l v), nextState, Option.bind_some, Option.map_some]

/-- The eight units of an octet (R175): `acc` is the accumulator once the first of them is driven. -/
theorem Drives.octet {s t : State} {o : Octet} {acc : BitVec 32} (hb : s.bitcnt = 0)
    (hbit : ∀ c k l v, k ≠ 7 → StepEffect c
      { s with acc := if k = 0 then s.acc else acc, bitcnt := k, lineOut := l, rsp := v }
      { s with acc := acc, bitcnt := k + 1, lineOut := lineBit o k, rsp := 0 })
    (hend : ∀ c l v, StepEffect c { s with acc := acc, bitcnt := 7, lineOut := l, rsp := v }
      { t with lineOut := lineBit o 7, rsp := 0 }) :
    Drives s (octetBits o) t := by
  have hs : { s with bitcnt := 0 } = s := by rw [← hb]
  have first : Drives { s with bitcnt := 0 } [lineBit o 0] { s with acc := acc, bitcnt := 1 } :=
    .unit fun c l v => hbit c 0 l v (by decide)
  have next (k : BitVec 3) (h0 : k ≠ 0) (h7 : k ≠ 7) :
      Drives { s with acc := acc, bitcnt := k } [lineBit o k] { s with acc := acc, bitcnt := k + 1 } :=
    .unit fun c l v => by simpa only [if_neg h0] using hbit c k l v h7
  have last : Drives { s with acc := acc, bitcnt := 7 } [lineBit o 7] t := .unit hend
  exact hs ▸ ((((((first.append (next 1 (by decide) (by decide))).append (next 2 (by decide) (by decide))).append
    (next 3 (by decide) (by decide))).append (next 4 (by decide) (by decide))).append
    (next 5 (by decide) (by decide))).append (next 6 (by decide) (by decide))).append last

/-! ## Counting the octets of a segment (R34) -/

theorem bcnt_ofNat_succ (k : Nat) : BitVec.ofNat 17 k + 1 = BitVec.ofNat 17 (k + 1) :=
  (BitVec.ofNat_add k 1).symm

theorem bcnt_ofNat_toNat {k : Nat} (h : k < 2 ^ 17) : (BitVec.ofNat 17 k).toNat = k :=
  Nat.mod_eq_of_lt h

theorem lt_length_of_getElem? {α : Type} {xs : List α} {k : Nat} {x : α} (h : xs[k]? = some x) : k < xs.length :=
  (List.getElem?_eq_some_iff.1 h).1

/-- One more octet of a sequence absorbed (40_checksum.md R122). -/
theorem cksum_take_succ {os : List Octet} {k : Nat} {o : Octet} (h : os[k]? = some o) :
    cksum (os.take (k + 1)) = cksum (os.take k) + zext32 o := by
  rw [List.take_add_one, h, Option.toList_some, cksum_concat]

/-- The accumulator that holds `a` before the octet's first bit and has absorbed the octet after it. -/
theorem accWith_of_acc {s : State} {o : Octet} {a : BitVec 32}
    (h : s.acc = if s.bitcnt = 0 then a else a + zext32 o) : s.accWith o = a + zext32 o := by
  by_cases hb : s.bitcnt = 0
  · rw [State.accWith, h, if_pos hb, if_pos hb]
  · rw [State.accWith, h, if_neg hb, if_neg hb]

theorem StepEffect.metaBit_of_acc {c : Level} {s : State} {o : Octet} {a : BitVec 32} (h : s.phase = .txMeta)
    (ho : s.txm[s.bcnt.toNat]? = some o) (hb : s.bitcnt ≠ 7)
    (ha : s.acc = if s.bitcnt = 0 then a else a + zext32 o) :
    StepEffect c s { s with lineOut := lineBit o s.bitcnt, acc := a + zext32 o, bitcnt := s.bitcnt + 1, rsp := 0 } :=
  accWith_of_acc ha ▸ .metaBit o h ho hb

theorem StepEffect.payBit_of_acc {c : Level} {s : State} {o : Octet} {a : BitVec 32} (h : s.phase = .txPay)
    (hm : s.bcnt.toNat < s.params.maxPayload) (ho : s.cell .txbuf s.bcnt.toNat = o) (hb : s.bitcnt ≠ 7)
    (ha : s.acc = if s.bitcnt = 0 then a else a + zext32 o) :
    StepEffect c s { s with lineOut := lineBit o s.bitcnt, acc := a + zext32 o, bitcnt := s.bitcnt + 1, rsp := 0 } := by
  subst ho
  exact accWith_of_acc ha ▸ .payBit h hm hb

/-- Where a segment of `n` octets stands after `k` of them: at `t` when it is complete. The accumulator
is `A k` then. -/
def segmentAt (s t : State) (n : Nat) (A : Nat → BitVec 32) (k : Nat) : State :=
  if k = n then t else { s with bitcnt := 0, bcnt := BitVec.ofNat 17 k, acc := A k }

/-- A segment of octets, by what a bit but the eighth, the eighth bit of an octet but the last, and the
last bit of all do (R175 to R179). -/
theorem Drives.segment {s t : State} {os : List Octet} (A : Nat → BitVec 32) (hne : 0 < os.length)
    (hbit : ∀ k o, os[k]? = some o → ∀ c b l v, b ≠ 7 → StepEffect c
      { s with bcnt := BitVec.ofNat 17 k, acc := if b = 0 then A k else A (k + 1), bitcnt := b
               lineOut := l, rsp := v }
      { s with bcnt := BitVec.ofNat 17 k, acc := A (k + 1), bitcnt := b + 1, lineOut := lineBit o b, rsp := 0 })
    (hoctet : ∀ k o, os[k]? = some o → k + 1 < os.length → ∀ c l v, StepEffect c
      { s with bcnt := BitVec.ofNat 17 k, acc := A (k + 1), bitcnt := 7, lineOut := l, rsp := v }
      { s with bcnt := BitVec.ofNat 17 k + 1, acc := A (k + 1), bitcnt := 0, lineOut := lineBit o 7, rsp := 0 })
    (hend : ∀ k o, os[k]? = some o → k + 1 = os.length → ∀ c l v, StepEffect c
      { s with bcnt := BitVec.ofNat 17 k, acc := A os.length, bitcnt := 7, lineOut := l, rsp := v }
      { t with lineOut := lineBit o 7, rsp := 0 }) :
    Drives { s with bitcnt := 0, bcnt := 0, acc := A 0 } (octetsBits os) t := by
  have run : Drives (segmentAt s t os.length A 0) (octetsBits os) (segmentAt s t os.length A os.length) := by
    refine Drives.flatMap os (segmentAt s t os.length A) fun k o ho => ?_
    have hk := lt_length_of_getElem? ho
    rw [segmentAt, if_neg hk.ne]
    refine Drives.octet (acc := A (k + 1)) rfl (hbit k o ho) fun c l v => ?_
    by_cases hl : k + 1 = os.length
    · rw [segmentAt, if_pos hl]
      exact hl ▸ hend k o ho hl c l v
    · rw [segmentAt, if_neg hl, ← bcnt_ofNat_succ]
      exact hoctet k o ho (by omega) c l v
  rwa [segmentAt, segmentAt, if_neg hne.ne, if_pos rfl] at run

/-- An octet of a register, at the count that selects it. -/
theorem toList_getElem? {n k : Nat} {m : Vector Octet n} {o : Octet} (hn : n ≤ 6) (h : m.toList[k]? = some o) :
    k < n ∧ m[(BitVec.ofNat 17 k).toNat]? = some o := by
  have hk : k < n := m.length_toList ▸ lt_length_of_getElem? h
  rw [bcnt_ofNat_toNat (by omega)]
  exact ⟨hk, by simpa using h⟩

/-! ## The segments of the frame -/

/-- TX_META (R176). -/
theorem drives_txMeta (s : State) :
    Drives (s.start .txMeta) (octetsBits s.txm.toList) { s.start .txMck with acc := cksum s.txm.toList } := by
  refine Drives.segment (s := s.start .txMeta) (fun k => cksum (s.txm.toList.take k)) (by simp)
    (fun k o ho c b l v hb => ?_) (fun k o ho hk c l v => ?_) fun k o ho hk c l v => ?_
  · obtain ⟨-, hm⟩ := toList_getElem? (by decide) ho
    rw [cksum_take_succ ho]
    exact .metaBit_of_acc rfl hm hb rfl
  · obtain ⟨-, hm⟩ := toList_getElem? (by decide) ho
    rw [s.txm.length_toList] at hk
    exact .metaOctet o rfl hm rfl ((bcnt_ofNat_toNat (by omega)).trans_lt (by omega))
  · obtain ⟨-, hm⟩ := toList_getElem? (by decide) ho
    rw [s.txm.length_toList] at hk
    obtain rfl : k = 5 := by omega
    rw [List.take_length]
    exact .metaEnd o rfl hm rfl (bcnt_ofNat_toNat (by decide))

/-- The four octets of a checksum (R177, R179). -/
theorem Drives.checksum {s t : State} {a : BitVec 32}
    (hbit : ∀ n o, (digest a)[n.toNat]? = some o → ∀ c b l v, b ≠ 7 → StepEffect c
      { s with bcnt := n, acc := a, bitcnt := b, lineOut := l, rsp := v }
      { s with bcnt := n, acc := a, bitcnt := b + 1, lineOut := lineBit o b, rsp := 0 })
    (hoctet : ∀ n o, (digest a)[n.toNat]? = some o → n.toNat < 3 → ∀ c l v, StepEffect c
      { s with bcnt := n, acc := a, bitcnt := 7, lineOut := l, rsp := v }
      { s with bcnt := n + 1, acc := a, bitcnt := 0, lineOut := lineBit o 7, rsp := 0 })
    (hend : ∀ n o, (digest a)[n.toNat]? = some o → n.toNat = 3 → ∀ c l v, StepEffect c
      { s with bcnt := n, acc := a, bitcnt := 7, lineOut := l, rsp := v }
      { t with lineOut := lineBit o 7, rsp := 0 }) :
    Drives { s with bitcnt := 0, bcnt := 0, acc := a } (octetsBits (digest a).toList) t := by
  refine Drives.segment (fun _ => a) (by simp)
    (fun k o ho c b l v hb => ?_) (fun k o ho hk c l v => ?_) fun k o ho hk c l v => ?_
  · obtain ⟨-, hd⟩ := toList_getElem? (by decide) ho
    rw [ite_self]
    exact hbit _ o hd c b l v hb
  · obtain ⟨hlt, hd⟩ := toList_getElem? (by decide) ho
    rw [(digest a).length_toList] at hk
    exact hoctet _ o hd (by rw [bcnt_ofNat_toNat (by omega)]; omega) c l v
  · obtain ⟨hlt, hd⟩ := toList_getElem? (by decide) ho
    rw [(digest a).length_toList] at hk
    exact hend _ o hd (by rw [bcnt_ofNat_toNat (by omega)]; omega) c l v

/-- TX_MCK (R177). -/
theorem drives_txMck (s : State) (a : BitVec 32) :
    Drives { s.start .txMck with acc := a } (octetsBits (digest a).toList)
      (s.start (if metaSize s.txm = 0 then .txPck else .txPay)) :=
  Drives.checksum (s := s.start .txMck) (fun _ o ho _ _ _ _ hb => .metaSumBit o rfl ho hb)
    (fun _ o ho hn _ _ _ => .metaSumOctet o rfl ho rfl hn) fun _ o ho hn _ _ _ => .metaSumEnd o rfl ho rfl hn

/-- TX_PCK (R179). -/
theorem drives_txPck (s : State) (a : BitVec 32) :
    Drives { s.start .txPck with acc := a } (octetsBits (digest a).toList) { s.start .txEnd with acc := a } :=
  Drives.checksum (s := s.start .txPck) (fun _ o ho _ _ _ _ hb => .paySumBit o rfl ho hb)
    (fun _ o ho hn _ _ _ => .paySumOctet o rfl ho rfl hn) fun _ o ho hn _ _ _ => .paySumEnd o rfl ho rfl hn

theorem cells_getElem? {s : State} {b : Buffer} {n k : Nat} {o : Octet} (hn : n < 2 ^ 16)
    (h : (s.cells b n)[k]? = some o) : k < n ∧ s.cell b (BitVec.ofNat 17 k).toNat = o := by
  have hk : k < n := s.cells_length b n ▸ lt_length_of_getElem? h
  rw [bcnt_ofNat_toNat (by omega)]
  exact ⟨hk, by simpa [State.cells, hk] using h⟩

/-- TX_PAY (R178), for a payload that is not empty. -/
theorem drives_txPay (s : State) (hm : (metaSize s.txm).toNat ≤ s.params.maxPayload) (h0 : metaSize s.txm ≠ 0) :
    Drives (s.start .txPay) (octetsBits (s.cells .txbuf (metaSize s.txm).toNat))
      { s.start .txPck with acc := cksum (s.cells .txbuf (metaSize s.txm).toNat) } := by
  have hsize : (metaSize s.txm).toNat < 2 ^ 16 := (metaSize s.txm).isLt
  have hlen := s.cells_length .txbuf (metaSize s.txm).toNat
  have inside (k : Nat) (hk : k < (metaSize s.txm).toNat) : (BitVec.ofNat 17 k).toNat < s.params.maxPayload :=
    (bcnt_ofNat_toNat (by omega)).trans_lt (hk.trans_le hm)
  have count (k : Nat) (hk : k < (metaSize s.txm).toNat) : (BitVec.ofNat 17 k + 1).toNat = k + 1 := by
    rw [bcnt_ofNat_succ, bcnt_ofNat_toNat (by omega)]
  refine Drives.segment (s := s.start .txPay)
    (fun k => cksum ((s.cells .txbuf (metaSize s.txm).toNat).take k))
    (hlen.symm ▸ BitVec.toNat_pos_of_ne_zero h0)
    (fun k o ho c b l v hb => ?_) (fun k o ho hk c l v => ?_) fun k o ho hk c l v => ?_
  · obtain ⟨hlt, hcell⟩ := cells_getElem? hsize ho
    rw [cksum_take_succ ho]
    exact .payBit_of_acc rfl (inside k hlt) hcell hb rfl
  · obtain ⟨hlt, hcell⟩ := cells_getElem? hsize ho
    rw [hlen] at hk
    rw [← hcell]
    exact .payOctet rfl (inside k hlt) rfl ((count k hlt).trans_ne hk.ne)
  · obtain ⟨hlt, hcell⟩ := cells_getElem? hsize ho
    rw [hlen] at hk
    rw [← hcell, List.take_length]
    exact .payEnd rfl (inside k hlt) rfl ((count k hlt).trans hk)

/-- Where TX_PRE stands after `k` elements of the preamble (R174). -/
def preambleAt (s : State) (k : Nat) : State :=
  if k = s.plen.toNat then s.start .txMeta else { s.start .txPre with idx := BitVec.ofNat 8 k }

/-- TX_PRE (R174). -/
theorem drives_txPre (s : State) (hl : s.plen.toNat ≤ s.pat.length) (h0 : s.plen ≠ 0) :
    Drives (s.start .txPre) s.preamble (s.start .txMeta) := by
  have hlen : s.preamble.length = s.plen.toNat := List.length_take_of_le hl
  have hpos : 0 < s.plen.toNat := BitVec.toNat_pos_of_ne_zero h0
  have run : Drives (preambleAt s 0) (s.preamble.flatMap ([·])) (preambleAt s s.preamble.length) := by
    refine Drives.flatMap s.preamble (preambleAt s) fun k u hu => ?_
    have hk : k < s.plen.toNat := hlen ▸ lt_length_of_getElem? hu
    have hidx : (BitVec.ofNat 8 k).toNat = k := Nat.mod_eq_of_lt (by omega)
    have hpat : s.pat[(BitVec.ofNat 8 k).toNat]? = some u := by
      rw [hidx, ← hu, State.preamble, List.getElem?_take_of_lt hk]
    rw [preambleAt, if_neg hk.ne]
    refine .unit fun c l v => ?_
    by_cases hend : k + 1 = s.plen.toNat
    · rw [preambleAt, if_pos hend]
      exact .preambleEnd u rfl hpat (show BitVec.ofNat 8 k + 1 = s.plen by bv_omega)
    · rw [preambleAt, if_neg hend, BitVec.ofNat_add]
      exact .preambleElement u rfl hpat (show BitVec.ofNat 8 k + 1 ≠ s.plen by bv_omega)
  rwa [hlen, preambleAt, preambleAt, if_neg hpos.ne, if_pos rfl, List.flatMap_singleton'] at run

/-! ## The whole frame (R172, R181) -/

/-- The payload as TX_MCK leaves for it: an empty payload has no TX_PAY (R177). -/
theorem drives_payload (s : State) (hm : (metaSize s.txm).toNat ≤ s.params.maxPayload) :
    Drives (s.start (if metaSize s.txm = 0 then .txPck else .txPay))
      (octetsBits (s.cells .txbuf (metaSize s.txm).toNat))
      { s.start .txPck with acc := cksum (s.cells .txbuf (metaSize s.txm).toNat) } := by
  by_cases h0 : metaSize s.txm = 0
  · rw [if_pos h0, h0]
    exact Drives.nil _
  · rw [if_neg h0]
    exact drives_txPay s hm h0

/-- The frame of R172 is driven from the start of a send to TX_END. -/
theorem drives_frame (s : State) (hl : s.plen.toNat ≤ s.pat.length) (h0 : s.plen ≠ 0)
    (hm : (metaSize s.txm).toNat ≤ s.params.maxPayload) :
    Drives (s.start .txPre) (frame s.preamble s.txm (s.cells .txbuf (metaSize s.txm).toNat))
      { s.start .txEnd with acc := cksum (s.cells .txbuf (metaSize s.txm).toNat) } :=
  ((((drives_txPre s hl h0).append (drives_txMeta s)).append (drives_txMck s _)).append
    (drives_payload s hm)).append (drives_txPck s _)

end Sys2Proof.Machine
end

section
/-! A read, unit by unit (43_frame_rx.md R203 to R211): the units of a frame that verifies are sampled by
the `STEP`s of each phase, and its payload is published. -/

namespace Sys2Proof.Machine

/-! ## Sampling -/

/-- `STEP 1`s that sample the units `us` lead from `s` to `t`, whatever the shift register, the level and
the response that `s` starts with. -/
def Samples (s : State) (us : List Level) (t : State) : Prop :=
  ∀ (r : Octet) (u : Level) (v : Octet), ∃ r' u' v',
    sampleUnits us { s with shreg := r, lineIn := u, rsp := v } =
      some { t with shreg := r', lineIn := u', rsp := v' }

theorem Samples.nil (s : State) : Samples s [] s := fun r u v => ⟨r, u, v, rfl⟩

theorem Samples.append {s t w : State} {us vs : List Level} (h : Samples s us t) (k : Samples t vs w) :
    Samples s (us ++ vs) w := by
  intro r u v
  obtain ⟨r₁, u₁, v₁, h₁⟩ := h r u v
  obtain ⟨r₂, u₂, v₂, h₂⟩ := k r₁ u₁ v₁
  exact ⟨r₂, u₂, v₂, by rw [sampleUnits_append, h₁, Option.bind_some, h₂]⟩

theorem Samples.flatMap {α : Type} {g : α → List Level} (xs : List α) (S : Nat → State)
    (h : ∀ k x, xs[k]? = some x → Samples (S k) (g x) (S (k + 1))) :
    Samples (S 0) (xs.flatMap g) (S xs.length) :=
  run_flatMap Samples.nil Samples.append xs S h

theorem sampleUnits_cons_of_effect {u : Level} {us : List Level} {s t : State}
    (h : StepEffect true { s with lineIn := u } t) : sampleUnits (u :: us) s = sampleUnits us t := by
  simp only [sampleUnits, exec, execStep_of_effect h, nextState, Option.bind_some]

theorem Samples.unit {s t : State} {u : Level}
    (h : ∀ r v, StepEffect true { s with shreg := r, lineIn := u, rsp := v }
      { t with shreg := r, lineIn := u, rsp := 0 }) : Samples s [u] t :=
  fun r _ v => ⟨r, u, 0, sampleUnits_cons_of_effect (h r v)⟩

/-- Units that complete no octet are shifted in (R204). -/
theorem sampleUnits_shifted {s : State} (us : List Level) (hp : s.phase = .rxHeader ∨ s.phase = .rxPayload)
    (hb : s.bitcnt.toNat + us.length ≤ 7) :
    ∃ u v, sampleUnits us s = some { s with
      shreg := us.foldl shiftIn s.shreg, bitcnt := s.bitcnt + BitVec.ofNat 3 us.length, lineIn := u, rsp := v } := by
  induction us generalizing s with
  | nil => exact ⟨s.lineIn, s.rsp, by simp [sampleUnits]⟩
  | cons u us ih =>
    rw [List.length_cons] at hb
    have h7 : s.bitcnt ≠ 7 := by bv_omega
    have hb' : (s.bitcnt + 1).toNat + us.length ≤ 7 := by bv_omega
    have hstep := sampleUnits_cons_of_effect (us := us) (.shifted (s := { s with lineIn := u }) hp rfl h7)
    obtain ⟨u', v', h⟩ := ih
      (s := { s with shreg := shiftIn s.shreg u, bitcnt := s.bitcnt + 1, lineIn := u, rsp := 0 }) hp hb'
    refine ⟨u', v', hstep.trans (h.trans ?_)⟩
    rw [List.length_cons, Nat.add_comm us.length 1, BitVec.ofNat_add, ← BitVec.add_assoc]
    rfl

/-- The eight units of an octet (R204), by what the unit that completes it does. -/
theorem Samples.octet {s t : State} {o : Octet} (hp : s.phase = .rxHeader ∨ s.phase = .rxPayload)
    (h : ∀ r u v, shiftIn r u = o → StepEffect true { s with bitcnt := 7, shreg := r, lineIn := u, rsp := v }
      { t with shreg := o, lineIn := u, rsp := 0 }) :
    Samples { s with bitcnt := 0 } (octetBits o) t := by
  intro r u v
  obtain ⟨u', v', h7⟩ := sampleUnits_shifted (s := { s with bitcnt := 0, shreg := r, lineIn := u, rsp := v })
    ((octetBits o).take 7) hp le_rfl
  refine ⟨o, o.getLsbD 0, 0, ?_⟩
  rw [← List.take_append_drop 7 (octetBits o), sampleUnits_append, h7, Option.bind_some]
  exact sampleUnits_cons_of_effect (h _ _ _ (foldl_shiftIn_octetBits r o))

/-! ## Registers and cells filled octet by octet -/

/-- `new` written over the first `k` octets of `old`. -/
def overwritten {n : Nat} (old new : Vector Octet n) (k : Nat) : Vector Octet n :=
  Vector.ofFn fun i => if i.val < k then new[i] else old[i]

theorem overwritten_zero {n : Nat} (old new : Vector Octet n) : overwritten old new 0 = old := by
  ext i hi : 1
  simp [overwritten]

theorem overwritten_all {n : Nat} (old new : Vector Octet n) : overwritten old new n = new := by
  ext i hi : 1
  simp [overwritten]

theorem overwritten_succ {n k : Nat} {old new : Vector Octet n} {o : Octet} (h : new[k]? = some o) :
    (overwritten old new k).setIfInBounds k o = overwritten old new (k + 1) := by
  obtain ⟨hk, rfl⟩ := Vector.getElem?_eq_some_iff.1 h
  ext i hi : 1
  rw [Vector.getElem_setIfInBounds]
  by_cases hi : k = i
  · subst hi
    simp [overwritten]
  · simp [overwritten, hi, show i ≤ k ↔ i < k by omega]

/-- The octets `os` written to the first cells of `m`, up to `k` of them. -/
def Memory.stored (m : Memory) (os : List Octet) : Nat → Memory
  | 0 => m
  | k + 1 => Memory.write (Memory.stored m os k) k (os.getD k 0)

theorem Memory.get?_stored {m : Memory} {os : List Octet} {k i : Nat} (h : i < k) :
    Memory.get? (Memory.stored m os k) i = some (os.getD i 0) := by
  induction k with
  | zero => omega
  | succ k ih =>
    by_cases hi : i = k
    · subst hi
      exact Memory.get?_write_self _ _ _
    · rw [Memory.stored, Memory.get?_write_of_ne _ _ hi, ih (by omega)]

/-! ## The segments of the frame -/

/-- `s` with the first `k` of the samples `us` in the match buffer. -/
def matchBufferAt (s : State) (us : List Level) (k : Nat) : State :=
  { s with mbuf := us.take k ++ s.mbuf.drop k }

theorem matchBufferAt_mbuf_succ {s : State} {us : List Level} {k : Nat} {u : Level} (hu : us[k]? = some u)
    (hk : k < s.mbuf.length) : (matchBufferAt s us k).mbuf.set k u = (matchBufferAt s us (k + 1)).mbuf := by
  have hlen : (us.take k).length = k := List.length_take_of_le (lt_length_of_getElem? hu).le
  simp only [matchBufferAt]
  rw [List.set_append_right _ _ hlen.le, hlen, Nat.sub_self, List.drop_eq_getElem_cons hk, List.set_cons_zero,
    List.take_add_one, hu, Option.toList_some, List.append_assoc, List.singleton_append]

theorem StepEffect.sampled_of_mbuf {s : State} {m : List Level} (h : s.phase = .rxSync)
    (hi : s.idx.toNat < s.mbuf.length) (hp : s.idx + 1 ≠ s.plen) (hset : s.mbuf.set s.idx.toNat s.lineIn = m) :
    StepEffect true s { s with mbuf := m, idx := s.idx + 1, rsp := 0 } :=
  hset ▸ .sampled h rfl hi hp

theorem StepEffect.matched_of_mbuf {s : State} {m : List Level} (h : s.phase = .rxSync)
    (hi : s.idx.toNat < s.mbuf.length) (hp : s.idx + 1 = s.plen) (hset : s.mbuf.set s.idx.toNat s.lineIn = m)
    (hm : m.take s.plen.toNat = s.preamble) :
    StepEffect true s { State.start { s with mbuf := m } .rxHeader with rsp := 0 } := by
  subst hset
  exact .matched h rfl hi hp hm

/-- Where RX_SYNC stands after `k` units `us` of a block that matches (R203). -/
def syncAt (s : State) (us : List Level) (k : Nat) : State :=
  if k = s.plen.toNat then (matchBufferAt s us k).start .rxHeader
  else { (matchBufferAt s us k).start .rxSync with idx := BitVec.ofNat 8 k }

/-- RX_SYNC (R203). -/
theorem samples_rxSync (s : State) (hl : s.plen.toNat ≤ s.pat.length) (hb : s.plen.toNat ≤ s.mbuf.length)
    (h0 : s.plen ≠ 0) :
    Samples (s.start .rxSync) s.preamble ((matchBufferAt s s.preamble s.plen.toNat).start .rxHeader) := by
  have hlen : s.preamble.length = s.plen.toNat := List.length_take_of_le hl
  have hpos : 0 < s.plen.toNat := BitVec.toNat_pos_of_ne_zero h0
  have run : Samples (syncAt s s.preamble 0) (s.preamble.flatMap ([·])) (syncAt s s.preamble s.preamble.length) := by
    refine Samples.flatMap s.preamble (syncAt s s.preamble) fun k u hu => ?_
    have hk : k < s.plen.toNat := hlen ▸ lt_length_of_getElem? hu
    have hidx : (BitVec.ofNat 8 k).toNat = k := Nat.mod_eq_of_lt (by omega)
    have hset : (matchBufferAt s s.preamble k).mbuf.set (BitVec.ofNat 8 k).toNat u =
        (matchBufferAt s s.preamble (k + 1)).mbuf := by
      rw [hidx, matchBufferAt_mbuf_succ hu (hk.trans_le hb)]
    have hin : (BitVec.ofNat 8 k).toNat < (matchBufferAt s s.preamble k).mbuf.length := by
      rw [hidx, matchBufferAt, List.length_append, List.length_take, List.length_drop]
      omega
    rw [syncAt, if_neg hk.ne]
    refine .unit fun r v => ?_
    by_cases hend : k + 1 = s.plen.toNat
    · have hblock : (matchBufferAt s s.preamble (k + 1)).mbuf.take s.plen.toNat = s.preamble := by
        rw [matchBufferAt, hend, ← hlen, List.take_length, List.take_left]
      rw [syncAt, if_pos hend]
      exact .matched_of_mbuf rfl hin (show BitVec.ofNat 8 k + 1 = s.plen by bv_omega) hset hblock
    · rw [syncAt, if_neg hend, BitVec.ofNat_add]
      exact .sampled_of_mbuf rfl hin (show BitVec.ofNat 8 k + 1 ≠ s.plen by bv_omega) hset
  rwa [hlen, syncAt, syncAt, if_neg hpos.ne, if_pos rfl, List.flatMap_singleton'] at run

/-! The effects of an octet received, by its index `k` in the array it goes to (R205, R208). -/

theorem StepEffect.headerOctet_at {s : State} {k : Nat} (h : s.phase = .rxHeader) (hb : s.bitcnt = 7)
    (hn : s.bcnt.toNat = k) (hk : k < 6) :
    StepEffect true s { s with
      shreg := s.octetIn, bitcnt := 0, hdr := s.hdr.setIfInBounds k s.octetIn, acc := s.acc + zext32 s.octetIn
      bcnt := s.bcnt + 1, rsp := 0 } := by
  subst hn
  exact .headerOctet h rfl hb hk

theorem StepEffect.headerSumOctet_at {s : State} {k : Nat} (h : s.phase = .rxHeader) (hb : s.bitcnt = 7)
    (hn : s.bcnt.toNat = 6 + k) (hk : k < 3) :
    StepEffect true s { s with
      shreg := s.octetIn, bitcnt := 0, rxck := s.rxck.setIfInBounds k s.octetIn, bcnt := s.bcnt + 1, rsp := 0 } := by
  obtain rfl : s.bcnt.toNat - 6 = k := by omega
  exact .headerSumOctet h rfl hb (by omega) (by omega)

theorem StepEffect.payloadOctet_at {s : State} {k : Nat} (h : s.phase = .rxPayload) (hb : s.bitcnt = 7)
    (hn : s.bcnt.toNat = k) (hk : k < s.rxSize) (hm : k < s.params.maxPayload) :
    StepEffect true s { s with
      shreg := s.octetIn, bitcnt := 0, stage := Memory.write s.stage k s.octetIn, acc := s.acc + zext32 s.octetIn
      bcnt := s.bcnt + 1, rsp := 0 } := by
  subst hn
  exact .payloadOctet h rfl hb hk hm

theorem StepEffect.payloadSumOctet_at {s : State} {k : Nat} (h : s.phase = .rxPayload) (hb : s.bitcnt = 7)
    (hn : s.bcnt.toNat = s.rxSize + k) (hk : k < 3) :
    StepEffect true s { s with
      shreg := s.octetIn, bitcnt := 0, rxck := s.rxck.setIfInBounds k s.octetIn, bcnt := s.bcnt + 1, rsp := 0 } := by
  obtain rfl : s.bcnt.toNat - s.rxSize = k := by omega
  exact .payloadSumOctet h rfl hb (by omega) (by omega)

/-- `s` in RX_HEADER with the first `k` octets of the record `m` received (R205). -/
def headerAt (s : State) (m : MetaRecord) (k : Nat) : State :=
  { s.start .rxHeader with
    hdr := overwritten s.hdr m k, acc := cksum (m.toList.take k), bcnt := BitVec.ofNat 17 k }

/-- The record in RX_HEADER (R205). -/
theorem samples_record (s : State) (m : MetaRecord) :
    Samples (s.start .rxHeader) (octetsBits m.toList)
      { s.start .rxHeader with hdr := m, acc := cksum m.toList, bcnt := 6 } := by
  have run : Samples (headerAt s m 0) (octetsBits m.toList) (headerAt s m m.toList.length) := by
    refine Samples.flatMap m.toList (headerAt s m) fun k o ho => ?_
    obtain ⟨hk, hm⟩ := toList_getElem? (by decide) ho
    have hn : (BitVec.ofNat 17 k).toNat = k := bcnt_ofNat_toNat (by omega)
    have hhdr := overwritten_succ (old := s.hdr) (hn ▸ hm)
    refine Samples.octet (s := headerAt s m k) (.inl rfl) fun r u v hro => ?_
    subst hro
    rw [headerAt, headerAt, cksum_take_succ ho, ← hhdr, ← bcnt_ofNat_succ]
    exact .headerOctet_at rfl rfl hn hk
  rwa [headerAt, headerAt, overwritten_zero, List.take_length, m.length_toList, overwritten_all] at run

/-- Where the checksum `d` after a segment of `n` octets stands after `k` of its own: at `t` when it is
complete. -/
def checksumAt (s t : State) (n : Nat) (d : Digest) (k : Nat) : State :=
  if k = 4 then t else { s with bitcnt := 0, bcnt := BitVec.ofNat 17 (n + k), rxck := overwritten s.rxck d k }

/-- The octets of a checksum received after a segment of `n` octets, by what each but the last and the
last of them do (R205, R206, R208, R209). -/
theorem Samples.checksum {s t : State} {n : Nat} (d : Digest) (hp : s.phase = .rxHeader ∨ s.phase = .rxPayload)
    (hoctet : ∀ k w r u v, k < 3 → StepEffect true
      { s with bcnt := BitVec.ofNat 17 (n + k), rxck := w, bitcnt := 7, shreg := r, lineIn := u, rsp := v }
      { s with bcnt := BitVec.ofNat 17 (n + k) + 1, rxck := w.setIfInBounds k (shiftIn r u), bitcnt := 0
               shreg := shiftIn r u, lineIn := u, rsp := 0 })
    (hend : ∀ w r u v, w.setIfInBounds 3 (shiftIn r u) = d → StepEffect true
      { s with bcnt := BitVec.ofNat 17 (n + 3), rxck := w, bitcnt := 7, shreg := r, lineIn := u, rsp := v }
      { t with shreg := shiftIn r u, lineIn := u, rsp := 0 }) :
    Samples { s with bitcnt := 0, bcnt := BitVec.ofNat 17 n } (octetsBits d.toList) t := by
  have run : Samples (checksumAt s t n d 0) (octetsBits d.toList) (checksumAt s t n d d.toList.length) := by
    refine Samples.flatMap d.toList (checksumAt s t n d) fun k o ho => ?_
    have hk : k < 4 := (toList_getElem? (by decide) ho).1
    have hset : (overwritten s.rxck d k).setIfInBounds k o = overwritten s.rxck d (k + 1) :=
      overwritten_succ (by simpa using ho)
    rw [checksumAt, if_neg hk.ne]
    refine Samples.octet (s := { s with bcnt := BitVec.ofNat 17 (n + k), rxck := overwritten s.rxck d k }) hp
      fun r u v hro => ?_
    subst hro
    rcases Nat.lt_or_ge k 3 with h3 | h3
    · rw [checksumAt, if_neg (by omega), ← hset, ← Nat.add_assoc, ← bcnt_ofNat_succ]
      exact hoctet k _ r u v h3
    · obtain rfl : k = 3 := by omega
      exact hend _ r u v (hset.trans (overwritten_all _ _))
  rwa [checksumAt, checksumAt, if_neg (by decide), overwritten_zero, if_pos d.length_toList] at run

/-- The checksum of a record that is not too large (R206, R207). -/
theorem samples_recordChecksum (s : State) (m : MetaRecord) (hm : (metaSize m).toNat ≤ s.params.maxPayload) :
    Samples { s.start .rxHeader with hdr := m, acc := cksum m.toList, bcnt := 6 } (checksumBits m.toList)
      (State.start { s with hdr := m, rxm := m, rxck := digest (cksum m.toList) } .rxPayload) := by
  refine Samples.checksum (s := { s.start .rxHeader with hdr := m, acc := cksum m.toList }) (n := 6) _ (.inl rfl)
    (fun k w r u v hk => ?_) fun w r u v hw => ?_
  · exact .headerSumOctet_at rfl rfl (bcnt_ofNat_toNat (by omega)) hk
  · rw [← hw]
    exact .headerVerified rfl rfl rfl (bcnt_ofNat_toNat (by decide)) hw hm

/-- `s` in RX_PAYLOAD with the first `k` of the octets `os` received (R208). -/
def payloadAt (s : State) (os : List Octet) (k : Nat) : State :=
  { s.start .rxPayload with
    stage := Memory.stored s.stage os k, acc := cksum (os.take k), bcnt := BitVec.ofNat 17 k }

/-- The payload in RX_PAYLOAD (R208). -/
theorem samples_payload (s : State) (os : List Octet) (hl : os.length ≤ s.rxSize)
    (hm : s.rxSize ≤ s.params.maxPayload) :
    Samples (s.start .rxPayload) (octetsBits os) (payloadAt s os os.length) := by
  have hsize := rxSize_lt s
  refine Samples.flatMap os (payloadAt s os) fun k o ho => ?_
  have hk := lt_length_of_getElem? ho
  have hn : (BitVec.ofNat 17 k).toNat = k := bcnt_ofNat_toNat (by omega)
  have hget : os.getD k 0 = o := by rw [List.getD_eq_getElem?_getD, ho, Option.getD_some]
  refine Samples.octet (s := payloadAt s os k) (.inr rfl) fun r u v hro => ?_
  subst hro
  rw [payloadAt, payloadAt, cksum_take_succ ho, ← bcnt_ofNat_succ, Memory.stored, hget]
  exact .payloadOctet_at rfl rfl hn (hk.trans_le hl) (hk.trans_le (hl.trans hm))

/-- The checksum of the payload, and publication (R208, R209, R211). -/
theorem samples_payloadChecksum (s : State) (os : List Octet) (hl : os.length = s.rxSize) :
    Samples (payloadAt s os os.length) (checksumBits os)
      (State.publish { payloadAt s os os.length with
        rxck := digest (cksum os), bcnt := BitVec.ofNat 17 (os.length + 4) }) := by
  have hsize := rxSize_lt s
  have hacc : (payloadAt s os os.length).acc = cksum os := congrArg cksum os.take_length
  refine Samples.checksum (s := payloadAt s os os.length) (n := os.length) _ (.inr rfl)
    (fun k w r u v hk => ?_) fun w r u v hw => ?_
  · have hn : (BitVec.ofNat 17 (os.length + k)).toNat = s.rxSize + k := by rw [bcnt_ofNat_toNat (by omega), hl]
    exact .payloadSumOctet_at rfl rfl hn hk
  · have hn : (BitVec.ofNat 17 (os.length + 3)).toNat = s.rxSize + 3 := by rw [bcnt_ofNat_toNat (by omega), hl]
    rw [← hw, ← bcnt_ofNat_succ (os.length + 3)]
    exact .payloadVerified rfl rfl rfl hn (hw.trans (congrArg digest hacc.symm))

/-! ## The whole frame (R207, R211, R213, R215) -/

/-- `s` with the whole frame of `record` and `payload` sampled, its preamble in the match buffer. -/
def frameSampled (s : State) (record : MetaRecord) (payload : List Octet) : State :=
  { payloadAt { matchBufferAt s s.preamble s.plen.toNat with
      hdr := record, rxm := record, rxck := digest (cksum record.toList) } payload payload.length with
    rxck := digest (cksum payload), bcnt := BitVec.ofNat 17 (payload.length + 4) }

/-- A frame sampled from the beginning of a block is published. -/
theorem samples_frame (s : State) {record : MetaRecord} {payload : List Octet} (hp : s.plen.toNat ≤ s.pat.length)
    (hb : s.plen.toNat ≤ s.mbuf.length) (h0 : s.plen ≠ 0) (hl : payload.length = (metaSize record).toNat)
    (hm : (metaSize record).toNat ≤ s.params.maxPayload) :
    Samples (s.start .rxSync) (frame s.preamble record payload) (frameSampled s record payload).publish :=
  ((((samples_rxSync s hp hb h0).append (samples_record _ record)).append
    (samples_recordChecksum _ record hm)).append (samples_payload _ payload hl.le hm)).append
    (samples_payloadChecksum _ payload hl)

theorem publish_cell_pub {s : State} {i : Nat} (h : i < s.rxSize) : s.publish.cell .pub i = s.cell .stage i :=
  State.cell_of_get? (Memory.get?_adopt_of_lt s.pub (s.cell .stage) h)

theorem publish_cells_pub (s : State) : s.publish.cells .pub s.rxSize = s.cells .stage s.rxSize :=
  List.map_congr_left fun _ hi => publish_cell_pub (List.mem_range.1 hi)

/-- The octets staged are the payload (R208). -/
theorem frameSampled_cells_stage (s : State) (record : MetaRecord) (payload : List Octet) :
    (frameSampled s record payload).cells .stage payload.length = payload := by
  refine List.ext_getElem (State.cells_length _ _ _) fun i hi hi' => ?_
  have hget : Memory.get? ((frameSampled s record payload).buffer .stage) i = some (payload.getD i 0) :=
    Memory.get?_stored hi'
  simp only [State.cells, List.getElem_map, List.getElem_range]
  rw [State.cell_of_get? hget, List.getD_eq_getElem _ _ hi']

/-- The octets published are the payload (R211). -/
theorem published_cells_pub {s : State} {record : MetaRecord} {payload : List Octet}
    (hl : payload.length = (metaSize record).toNat) :
    (frameSampled s record payload).publish.cells .pub payload.length = payload := by
  have h := publish_cells_pub (frameSampled s record payload)
  have hsize : (frameSampled s record payload).rxSize = payload.length := hl.symm
  rw [hsize, frameSampled_cells_stage] at h
  exact h

end Sys2Proof.Machine
end

section
/-! A send and a read on one line, under the interleaving of 20_memory.md R84. -/

namespace Sys2Proof.Machine

/-- A loopback of driven units, each of them sampled. -/
theorem loopback_of_units {us : List Level} {a a' b b' : State}
    (ha : driveUnits (List.replicate us.length true) a = some (us, a')) (hb : sampleUnits us b = some b') :
    loopback us.length a b = some (a', b') := by
  induction us generalizing a b with
  | nil =>
    cases ha
    cases hb
    rfl
  | cons u us ih =>
    simp only [List.length_cons, List.replicate_succ, driveUnits, Option.bind_eq_some_iff, Option.map_eq_some_iff] at ha
    obtain ⟨a₁, ha₁, ⟨vs, a₂⟩, hvs, heq⟩ := ha
    obtain ⟨⟨rfl, rfl⟩, rfl⟩ : (a₁.lineOut = u ∧ vs = us) ∧ a₂ = a' := by simpa using heq
    obtain ⟨b₁, hb₁, hb₂⟩ := Option.bind_eq_some_iff.1 hb
    rw [List.length_cons, loopback, loopbackUnit, ha₁, Option.bind_some]
    have hb₁' : nextState (exec (.step true) { b with lineIn := a₁.pins.lineOut }) = some b₁ := hb₁
    rw [hb₁', Option.map_some, Option.bind_some]
    exact ih hvs hb₂

@[simp] theorem frame_length (preamble : List Level) (record : MetaRecord) (payload : List Octet) :
    (frame preamble record payload).length = frameUnits preamble.length payload.length := by
  simp only [frame, frameUnits, checksumBits, List.length_append, octetsBits_length, Vector.length_toList]
  omega

/-- Two runs over the same units, one that drives them and one that samples them, are a loopback. -/
theorem loopback_of_drives_samples {us : List Level} {a a' b b' : State} (ha : Drives a us a') (hb : Samples b us b') :
    ∃ l v r u w, loopback us.length a b =
      some ({ a' with lineOut := l, rsp := v }, { b' with shreg := r, lineIn := u, rsp := w }) := by
  obtain ⟨l, v, hd⟩ := ha (List.replicate us.length true) a.lineOut a.rsp List.length_replicate
  obtain ⟨r, u, w, hs⟩ := hb b.shreg b.lineIn b.rsp
  exact ⟨l, v, r, u, w, loopback_of_units hd hs⟩

theorem exec_send_of_idle {s : State} (h : s.phase = .idle) (h0 : s.plen ≠ 0)
    (hm : (metaSize s.txm).toNat ≤ s.params.maxPayload) :
    exec .send s = .next { s.start .txPre with dir := true, rsp := 0 } :=
  congrArg Host.Outcome.next ((State.whenIdle_of_idle _ h).trans (if_pos (decide_eq_true ⟨h0, hm⟩)))

theorem exec_poll_of_idle {s : State} (h : s.phase = .idle) (h0 : s.plen ≠ 0) :
    exec .poll s = .next { s.clearOutcome.start .rxSync with dir := false, rsp := 0 } :=
  congrArg Host.Outcome.next ((State.whenIdle_of_idle _ h).trans (if_pos (decide_eq_true h0)))

/-- Settles O48: the sender drives the frame of its record and payload (`drives_frame`), and a reader that
samples that frame publishes them (`samples_frame`). -/
theorem loopbackRoundTrip : Obligations.LoopbackRoundTrip := by
  intro a b ha hb hai hbi ha0 hplen hpre hma hmb
  have hb0 : b.plen ≠ 0 := hplen ▸ ha0
  have hpat : a.plen.toNat ≤ a.pat.length := ha.patLength ▸ ha.plen
  have hlen := a.cells_length .txbuf (metaSize a.txm).toNat
  have hd := drives_frame { a with dir := true, rsp := 0 } hpat ha0 hma
  have hs := samples_frame { b.clearOutcome with dir := false, rsp := 0 } (hb.patLength ▸ hb.plen)
    (hb.mbufLength ▸ hb.plen) hb0 hlen hmb
  have hs' : Samples _ (frame a.preamble a.txm (a.cells .txbuf (metaSize a.txm).toNat)) _ := hpre ▸ hs
  obtain ⟨l, v, r, u, w, hloop⟩ := loopback_of_drives_samples hd hs'
  have hunits := frame_length a.preamble a.txm (a.cells .txbuf (metaSize a.txm).toNat)
  rw [hlen, State.preamble, List.length_take_of_le hpat] at hunits
  refine ⟨_, _, _, _, exec_send_of_idle hai ha0 hma, exec_poll_of_idle hbi hb0, hunits ▸ hloop,
    rfl, rfl, rfl, rfl, rfl, rfl, ?_⟩
  have hpub := published_cells_pub (s := { b.clearOutcome with dir := false, rsp := 0 }) hlen
  rw [hlen] at hpub
  exact hpub

end Sys2Proof.Machine
end

section
/-! The decoder and the encoder are inverse to each other (30_encoding.md R93, R94): what each format
accepts, written with the fields that the encoder makes. -/

namespace Sys2Proof

/-! ## What a format accepts (R93) -/

theorem formatZ_eq_ok {a : BitVec 4} {d : Octet} {i j : Instr} :
    formatZ a d i = .ok j ↔ j = i ∧ a = 0 ∧ d = 0 := by
  simp only [formatZ, ite_eq_iff, Except.ok.injEq, reduceCtorEq, and_false, or_false]
  tauto

theorem formatD_eq_ok {a : BitVec 4} {d : Octet} {mk : Octet → Instr} {i : Instr} :
    formatD a d mk = .ok i ↔ i = mk d ∧ a = 0 := by
  simp only [formatD, ite_eq_iff, Except.ok.injEq, reduceCtorEq, and_false, or_false]
  tauto

theorem formatJD_eq_ok {a : BitVec 4} {d : Octet} {mk : Nat → Octet → Instr} {i : Instr} :
    formatJD a d mk = .ok i ↔ i = mk a.toNat d := by
  simp only [formatJD, Except.ok.injEq, eq_comm]

theorem formatJ_eq_ok {a : BitVec 4} {d : Octet} {mk : Nat → Instr} {i : Instr} :
    formatJ a d mk = .ok i ↔ i = mk a.toNat ∧ d = 0 := by
  simp only [formatJ, ite_eq_iff, Except.ok.injEq, reduceCtorEq, and_false, or_false]
  tauto

theorem formatK_eq_ok {a : BitVec 4} {d : Octet} {mk : Fin 4 → Instr} {i : Instr} :
    formatK a d mk = .ok i ↔ ∃ k : Fin 4, i = mk k ∧ a = 0 ∧ d = 0#6 ++ BitVec.ofFin (w := 2) k := by
  have hfields : ∀ d : Octet, ∀ k : Fin 4, d = 0#6 ++ BitVec.ofFin (w := 2) k ↔
      d.extractLsb' 2 6 = 0 ∧ k = (d.extractLsb' 0 2).toFin := by decide
  simp only [formatK, hfields, ite_eq_iff, Except.ok.injEq, reduceCtorEq, and_false, or_false]
  constructor
  · rintro ⟨⟨ha, hd⟩, rfl⟩
    exact ⟨_, rfl, ha, hd, rfl⟩
  · rintro ⟨k, rfl, ha, hd, rfl⟩
    exact ⟨⟨ha, hd⟩, rfl⟩

theorem formatS_eq_ok {a : BitVec 4} {d : Octet} {mk : Level → Octet → Instr} {i : Instr} :
    formatS a d mk = .ok i ↔ ∃ b, i = mk b d ∧ a = 0#3 ++ BitVec.ofBool b := by
  have hfields : ∀ a : BitVec 4, ∀ b : Level, a = 0#3 ++ BitVec.ofBool b ↔
      a.extractLsb' 1 3 = 0 ∧ b = a.getLsbD 0 := by decide
  simp only [formatS, hfields, ite_eq_iff, Except.ok.injEq, reduceCtorEq, and_false, or_false]
  constructor
  · rintro ⟨ha, rfl⟩
    exact ⟨_, rfl, ha, rfl⟩
  · rintro ⟨b, rfl, ha, rfl⟩
    exact ⟨ha, rfl⟩

theorem formatC_eq_ok {a : BitVec 4} {d : Octet} {mk : Level → Instr} {i : Instr} :
    formatC a d mk = .ok i ↔ ∃ c, i = mk c ∧ a = 0 ∧ d = 0#7 ++ BitVec.ofBool c := by
  have hfields : ∀ d : Octet, ∀ c : Level, d = 0#7 ++ BitVec.ofBool c ↔
      d.extractLsb' 1 7 = 0 ∧ c = d.getLsbD 0 := by decide
  simp only [formatC, hfields, ite_eq_iff, Except.ok.injEq, reduceCtorEq, and_false, or_false]
  constructor
  · rintro ⟨⟨ha, hd⟩, rfl⟩
    exact ⟨_, rfl, ha, hd, rfl⟩
  · rintro ⟨c, rfl, ha, hd, rfl⟩
    exact ⟨⟨ha, hd⟩, rfl⟩

/-! ## Decode of encode -/

@[simp] theorem decode_wordOf (op a : BitVec 4) (d : Octet) : decode (wordOf op a d) = decodeFields op a d := by
  rw [decode, fieldOp_wordOf, fieldA_wordOf, fieldD_wordOf]

/-- A number that fits a field is read back from it. -/
theorem ofNat_toNat_of_fits {w n : Nat} (h : decide (n < 2 ^ w) = true) : (BitVec.ofNat w n).toNat = n :=
  Nat.mod_eq_of_lt (of_decide_eq_true h)

theorem decode_encode {i : Instr} (h : i.wellFormed = true) : decode (encode i) = .ok i := by
  cases i with
  | nop | errclr | ckclr | rxrd | poll | send => exact decode_wordOf _ _ _
  | ckadd d => exact (decode_wordOf 2 0 d).trans (formatD_eq_ok.2 ⟨rfl, rfl⟩)
  | txwr d => exact (decode_wordOf 9 0 d).trans (formatD_eq_ok.2 ⟨rfl, rfl⟩)
  | plen n =>
    have hn := congrArg Instr.plen (ofNat_toNat_of_fits h)
    exact (decode_wordOf 4 0 _).trans ((formatD_eq_ok (mk := fun n => .plen n.toNat)).2 ⟨hn.symm, rfl⟩)
  | ckrd k => exact (decode_wordOf 3 0 _).trans (formatK_eq_ok.2 ⟨k, rfl, rfl, rfl⟩)
  | pset i b =>
    have hi := congrArg (Instr.pset · b) (ofNat_toNat_of_fits h)
    exact (decode_wordOf 5 _ _).trans ((formatS_eq_ok (mk := fun b n => .pset n.toNat b)).2 ⟨b, hi.symm, rfl⟩)
  | ptr b d => exact (decode_wordOf 8 _ d).trans (formatS_eq_ok.2 ⟨b, rfl, rfl⟩)
  | mset j d =>
    have hj := congrArg (Instr.mset · d) (ofNat_toNat_of_fits h)
    exact (decode_wordOf 6 _ d).trans (formatJD_eq_ok.2 hj.symm)
  | mrd j =>
    have hj := congrArg Instr.mrd (ofNat_toNat_of_fits h)
    exact (decode_wordOf 7 _ 0).trans (formatJ_eq_ok.2 ⟨hj.symm, rfl⟩)
  | rdsr r =>
    have hr := congrArg Instr.rdsr (ofNat_toNat_of_fits h)
    exact (decode_wordOf 11 _ 0).trans (formatJ_eq_ok.2 ⟨hr.symm, rfl⟩)
  | step c => exact (decode_wordOf 14 0 _).trans (formatC_eq_ok.2 ⟨c, rfl, rfl, rfl⟩)

/-- Settles O2: each command's format accepts the fields that its word is made of. -/
theorem decodeInvertsEncode : Obligations.DecodeInvertsEncode := fun _ => decode_encode

/-! ## Encode of decode -/

/-- A field as a number fits the field and is written back to it. -/
theorem fits_and_ofNat_toNat {w : Nat} (x : BitVec w) :
    decide (x.toNat < 2 ^ w) = true ∧ BitVec.ofNat w x.toNat = x :=
  ⟨decide_eq_true x.isLt, BitVec.eq_of_toNat_eq (Nat.mod_eq_of_lt x.isLt)⟩

theorem eq_ofNat_of_toNat_eq {w n : Nat} {x : BitVec w} (h : x.toNat = n) : x = BitVec.ofNat w n :=
  h ▸ (fits_and_ofNat_toNat x).2.symm

/-- Case `h_n` below is the row, or the two rows, of `op = n - 1`. -/
theorem encode_of_decodeFields {op a : BitVec 4} {d : Octet} {i : Instr} (h : decodeFields op a d = .ok i) :
    i.wellFormed = true ∧ encode i = wordOf op a d := by
  obtain ⟨hfitsA, hbackA⟩ := fits_and_ofNat_toNat a
  obtain ⟨hfitsD, hbackD⟩ := fits_and_ofNat_toNat d
  unfold decodeFields at h
  split at h <;> rename_i hop
  case h_16 => cases h
  all_goals obtain rfl := eq_ofNat_of_toNat_eq hop
  case h_1 =>
    split_ifs at h with hnop herr
    · obtain ⟨rfl, rfl⟩ := hnop
      cases h
      exact ⟨rfl, rfl⟩
    · obtain ⟨rfl, rfl⟩ := herr
      cases h
      exact ⟨rfl, rfl⟩
  case h_2 | h_11 | h_13 | h_14 =>
    obtain ⟨rfl, rfl, rfl⟩ := formatZ_eq_ok.1 h
    exact ⟨rfl, rfl⟩
  case h_3 | h_10 =>
    obtain ⟨rfl, rfl⟩ := formatD_eq_ok.1 h
    exact ⟨rfl, rfl⟩
  case h_4 =>
    obtain ⟨k, rfl, rfl, rfl⟩ := formatK_eq_ok.1 h
    exact ⟨rfl, rfl⟩
  case h_5 =>
    obtain ⟨rfl, rfl⟩ := formatD_eq_ok.1 h
    exact ⟨hfitsD, congrArg (wordOf 4 0) hbackD⟩
  case h_6 =>
    obtain ⟨b, rfl, rfl⟩ := formatS_eq_ok.1 h
    exact ⟨hfitsD, congrArg (wordOf 5 _) hbackD⟩
  case h_7 =>
    obtain rfl := formatJD_eq_ok.1 h
    exact ⟨hfitsA, congrArg (wordOf 6 · d) hbackA⟩
  case h_8 =>
    obtain ⟨rfl, rfl⟩ := formatJ_eq_ok.1 h
    exact ⟨hfitsA, congrArg (wordOf 7 · 0) hbackA⟩
  case h_9 =>
    obtain ⟨b, rfl, rfl⟩ := formatS_eq_ok.1 h
    exact ⟨rfl, rfl⟩
  case h_12 =>
    obtain ⟨rfl, rfl⟩ := formatJ_eq_ok.1 h
    exact ⟨hfitsA, congrArg (wordOf 11 · 0) hbackA⟩
  case h_15 =>
    obtain ⟨c, rfl, rfl, rfl⟩ := formatC_eq_ok.1 h
    exact ⟨rfl, rfl⟩

/-- Settles O3: a word is its fields, and those its format accepts are the fields of the command. -/
theorem encodeInvertsDecode : Obligations.EncodeInvertsDecode := by
  intro w i h
  obtain ⟨hwf, henc⟩ := encode_of_decodeFields h
  exact ⟨hwf, henc.trans (wordOf_fields w)⟩

end Sys2Proof
end

section
/-! The decoder follows the opcode map (30_encoding.md R94, R95): the words that a row covers are those
that decode to the row's command. -/

namespace Sys2Proof

/-- The word of every command has the fixed bits of its row. -/
theorem row_covers_encode (i : Instr) : Laws.RowMatch.Statement i := by
  cases i with
  | nop => exact Laws.RowMatch.nop
  | errclr => exact Laws.RowMatch.errclr
  | ckclr => exact Laws.RowMatch.ckclr
  | ckadd d => exact Laws.RowMatch.ckadd d
  | ckrd k => exact Laws.RowMatch.ckrd k
  | plen n => exact Laws.RowMatch.plen n
  | pset j b => exact Laws.RowMatch.pset j b
  | mset j d => exact Laws.RowMatch.mset j d
  | mrd j => exact Laws.RowMatch.mrd j
  | ptr b d => exact Laws.RowMatch.ptr b d
  | txwr d => exact Laws.RowMatch.txwr d
  | rxrd => exact Laws.RowMatch.rxrd
  | rdsr r => exact Laws.RowMatch.rdsr r
  | poll => exact Laws.RowMatch.poll
  | send => exact Laws.RowMatch.send
  | step c => exact Laws.RowMatch.step c

/-! ## The fields of a covered word -/

theorem fields_of_covers {r : OpRow} {w : CmdWord} (h : r.covers w = true) :
    fieldOp w &&& fieldOp r.mask = fieldOp r.pattern ∧ fieldA w &&& fieldA r.mask = fieldA r.pattern ∧
      fieldD w &&& fieldD r.mask = fieldD r.pattern := by
  have hw : w &&& r.mask = r.pattern := eq_of_beq h
  simp only [← hw, fieldOp, fieldA, fieldD, BitVec.extractLsb'_and, and_self]

/-! The bits that a row leaves free are those of its format's operands (R93). -/

theorem formatZ_of_fixed {a : BitVec 4} {d : Octet} (i : Instr) (ha : a &&& 15 = 0) (hd : d &&& 255 = 0) :
    formatZ a d i = .ok i :=
  formatZ_eq_ok.2 ⟨rfl, BitVec.and_allOnes.symm.trans ha, BitVec.and_allOnes.symm.trans hd⟩

theorem formatD_of_fixed {a : BitVec 4} (d : Octet) (mk : Octet → Instr) (ha : a &&& 15 = 0) :
    formatD a d mk = .ok (mk d) :=
  formatD_eq_ok.2 ⟨rfl, BitVec.and_allOnes.symm.trans ha⟩

theorem formatJ_of_fixed (a : BitVec 4) {d : Octet} (mk : Nat → Instr) (hd : d &&& 255 = 0) :
    formatJ a d mk = .ok (mk a.toNat) :=
  formatJ_eq_ok.2 ⟨rfl, BitVec.and_allOnes.symm.trans hd⟩

theorem formatK_of_fixed {a : BitVec 4} {d : Octet} (mk : Fin 4 → Instr) (ha : a &&& 15 = 0)
    (hd : d &&& 252 = 0) : ∃ k, formatK a d mk = .ok (mk k) := by
  have hfree : ∀ d : Octet, d &&& 252 = 0 → ∃ k : Fin 4, d = 0#6 ++ BitVec.ofFin (w := 2) k := by decide
  obtain ⟨k, hk⟩ := hfree d hd
  exact ⟨k, formatK_eq_ok.2 ⟨k, rfl, BitVec.and_allOnes.symm.trans ha, hk⟩⟩

theorem formatS_of_fixed {a : BitVec 4} (d : Octet) (mk : Level → Octet → Instr) (ha : a &&& 14 = 0) :
    ∃ b, formatS a d mk = .ok (mk b d) := by
  have hfree : ∀ a : BitVec 4, a &&& 14 = 0 → ∃ b : Level, a = 0#3 ++ BitVec.ofBool b := by decide
  obtain ⟨b, hb⟩ := hfree a ha
  exact ⟨b, formatS_eq_ok.2 ⟨b, rfl, hb⟩⟩

theorem formatC_of_fixed {a : BitVec 4} {d : Octet} (mk : Level → Instr) (ha : a &&& 15 = 0)
    (hd : d &&& 254 = 0) : ∃ c, formatC a d mk = .ok (mk c) := by
  have hfree : ∀ d : Octet, d &&& 254 = 0 → ∃ c : Level, d = 0#7 ++ BitVec.ofBool c := by decide
  obtain ⟨c, hc⟩ := hfree d hd
  exact ⟨c, formatC_eq_ok.2 ⟨c, rfl, BitVec.and_allOnes.symm.trans ha, hc⟩⟩

/-! ## The rows -/

/-- A word that row `k` covers decodes to the command of row `k`; the cases stand in the order of the table. -/
theorem decode_of_row_covers {k : Nat} {r : OpRow} {w : CmdWord} (hr : opcodeTable[k]? = some r)
    (h : r.covers w = true) : ∃ i, decode w = .ok i ∧ i.rowIndex = k := by
  have hk : k < 16 := (List.getElem?_eq_some_iff.1 hr).1
  obtain ⟨hop, ha, hd⟩ := fields_of_covers h
  unfold decode
  generalize fieldOp w = op, fieldA w = a, fieldD w = d at hop ha hd ⊢
  have hfixed : op &&& 15 = op := BitVec.and_allOnes
  interval_cases k <;> cases hr <;> obtain rfl := hfixed.symm.trans hop
  · obtain rfl : a = 0 := BitVec.and_allOnes.symm.trans ha
    obtain rfl : d = 0 := BitVec.and_allOnes.symm.trans hd
    exact ⟨.nop, rfl, rfl⟩
  · obtain rfl : a = 1 := BitVec.and_allOnes.symm.trans ha
    obtain rfl : d = 0 := BitVec.and_allOnes.symm.trans hd
    exact ⟨.errclr, rfl, rfl⟩
  · exact ⟨.ckclr, formatZ_of_fixed .ckclr ha hd, rfl⟩
  · exact ⟨.ckadd d, formatD_of_fixed d .ckadd ha, rfl⟩
  · obtain ⟨n, hn⟩ := formatK_of_fixed .ckrd ha hd
    exact ⟨.ckrd n, hn, rfl⟩
  · exact ⟨.plen d.toNat, formatD_of_fixed d (fun n => .plen n.toNat) ha, rfl⟩
  · obtain ⟨b, hb⟩ := formatS_of_fixed d (fun b n => .pset n.toNat b) ha
    exact ⟨.pset d.toNat b, hb, rfl⟩
  · exact ⟨.mset a.toNat d, rfl, rfl⟩
  · exact ⟨.mrd a.toNat, formatJ_of_fixed a .mrd hd, rfl⟩
  · obtain ⟨b, hb⟩ := formatS_of_fixed d .ptr ha
    exact ⟨.ptr b d, hb, rfl⟩
  · exact ⟨.txwr d, formatD_of_fixed d .txwr ha, rfl⟩
  · exact ⟨.rxrd, formatZ_of_fixed .rxrd ha hd, rfl⟩
  · exact ⟨.rdsr a.toNat, formatJ_of_fixed a .rdsr hd, rfl⟩
  · exact ⟨.poll, formatZ_of_fixed .poll ha hd, rfl⟩
  · exact ⟨.send, formatZ_of_fixed .send ha hd, rfl⟩
  · obtain ⟨c, hc⟩ := formatC_of_fixed .step ha hd
    exact ⟨.step c, hc, rfl⟩

/-- A word is covered by the row of the command it decodes to, since it is that command's word. -/
theorem row_covers_of_decode {w : CmdWord} {i : Instr} (h : decode w = .ok i) :
    ∃ r, opcodeTable[i.rowIndex]? = some r ∧ r.covers w = true := by
  obtain ⟨-, rfl⟩ := encodeInvertsDecode w i h
  exact row_covers_encode i

/-- Settles O4: two rows that cover a word are the row of the one command it decodes to. -/
theorem decodedRowIsTheOnlyRowThatMatches : Obligations.DecodedRowIsTheOnlyRowThatMatches := by
  refine fun w => ⟨fun i hi k => ⟨?_, ?_⟩, ?_, ?_⟩
  · rintro ⟨r, hr, hcov⟩
    obtain ⟨j, hj, rfl⟩ := decode_of_row_covers hr hcov
    obtain rfl : i = j := Except.ok.inj (hi.symm.trans hj)
    rfl
  · rintro rfl
    exact row_covers_of_decode hi
  · rintro ⟨e, he⟩ r hr
    rw [Bool.eq_false_iff]
    intro hcov
    obtain ⟨k, hk⟩ := List.getElem?_of_mem hr
    obtain ⟨i, hi, -⟩ := decode_of_row_covers hk hcov
    cases he.symm.trans hi
  · intro hnone
    cases hd : decode w with
    | error e => exact ⟨e, rfl⟩
    | ok i =>
      obtain ⟨r, hr, hcov⟩ := row_covers_of_decode hd
      exact absurd hcov (Bool.eq_false_iff.1 (hnone r (List.mem_of_getElem? hr)))

end Sys2Proof
end

section
/-! Every step goes on (93_implementation_defined.md part 1): the position that the invariant bounds lies
inside the array its phase names, so that no rule of the engine stops (10_state.md R29). -/

namespace Sys2Proof.Machine

/-! ## Reception (43_frame_rx.md R203 to R209) -/

theorem headerOctet_goesOn {s : State} (o : Octet) (h : s.bcnt.toNat < 10) : ∃ t, s.headerOctet o = .ok t := by
  by_cases hmeta : s.bcnt.toNat < 6
  · exact ⟨_, if_pos hmeta⟩
  · exact ⟨_, (if_neg hmeta).trans (if_pos (by omega))⟩

theorem payloadOctet_goesOn {s : State} (o : Octet) (hsize : s.rxSize ≤ s.params.maxPayload)
    (h : s.bcnt.toNat < s.rxSize + 4) : ∃ t, s.payloadOctet o = .ok t := by
  by_cases hdata : s.bcnt.toNat < s.rxSize
  · exact ⟨_, (if_pos hdata).trans (if_pos (hdata.trans_le hsize))⟩
  · exact ⟨_, (if_neg hdata).trans (if_pos (by omega))⟩

theorem octetUnit_goesOn {s : State} (u : Level)
    (hhdr : s.phase = .rxHeader → s.bcnt.toNat < 10)
    (hpay : s.phase ≠ .rxHeader → s.rxSize ≤ s.params.maxPayload ∧ s.bcnt.toNat < s.rxSize + 4) :
    ∃ t, s.octetUnit u = .ok t := by
  obtain ⟨-, heq⟩ | ⟨-, hp, heq⟩ | ⟨-, hp, heq⟩ := octetUnit_cases s u
  · exact ⟨_, heq⟩
  · exact heq ▸ headerOctet_goesOn _ (hhdr hp)
  · obtain ⟨hsize, hcnt⟩ := hpay hp
    exact heq ▸ payloadOctet_goesOn _ hsize hcnt

/-- An index below `PLEN` is an index of `PAT` and of `MBUF` (10_state.md R22, R23, R31). -/
theorem State.Inv.idx_lt_pmax {s : State} (hI : s.Inv) (h : s.idx < s.plen) : s.idx.toNat < s.params.pmax :=
  lt_of_lt_of_le h hI.plen

theorem stepRx_goesOn {s : State} (hI : s.Inv) (hb : s.rxBusy = true) (c : Level) : ∃ t, stepRx c s = .ok t := by
  have hpos := hI.position
  obtain ⟨-, heq⟩ | ⟨-, hp, heq⟩ | ⟨-, hp, heq⟩ := stepRx_cases c s
  · exact ⟨_, heq⟩
  · obtain ⟨hidx, -, -⟩ := (position_rxSync hp).1 hpos
    exact ⟨_, heq.trans (syncUnit_of_lt _ (hI.mbufLength ▸ hI.idx_lt_pmax hidx))⟩
  · refine heq ▸ octetUnit_goesOn s.lineIn (fun hh => (position_rxHeader hh).1 hpos) fun hh => ?_
    have hpay : s.phase = .rxPayload := by simpa [State.rxBusy, hp, hh] using hb
    obtain ⟨hsize, hcnt, -⟩ := (position_rxPayload hpay).1 hpos
    exact ⟨hsize, hcnt⟩

/-! ## Transmission (42_frame_tx.md R174 to R180) -/

theorem stepTxPre_goesOn {s : State} (h : s.idx.toNat < s.pat.length) : ∃ t, stepTxPre s = .ok t := by
  simp only [stepTxPre, List.getElem?_eq_getElem h]
  split <;> exact ⟨_, rfl⟩

theorem stepTxMeta_goesOn {s : State} (h : s.bcnt.toNat < 6) : ∃ t, stepTxMeta s = .ok t := by
  simp only [stepTxMeta, Vector.getElem?_eq_getElem h]
  exact ⟨_, rfl⟩

theorem stepTxMck_goesOn {s : State} (h : s.bcnt.toNat < 4) : ∃ t, stepTxMck s = .ok t := by
  simp only [stepTxMck, Vector.getElem?_eq_getElem h]
  exact ⟨_, rfl⟩

theorem stepTxPay_goesOn {s : State} (h : s.bcnt.toNat < s.params.maxPayload) : ∃ t, stepTxPay s = .ok t :=
  ⟨_, if_pos h⟩

theorem stepTxPck_goesOn {s : State} (h : s.bcnt.toNat < 4) : ∃ t, stepTxPck s = .ok t := by
  simp only [stepTxPck, Vector.getElem?_eq_getElem h]
  exact ⟨_, rfl⟩

/-! ## STEP and the other commands -/

theorem finishStep_goesOn {r : Except Fault State} (h : ∃ t, r = .ok t) : ∃ t, finishStep r = .next t := by
  obtain ⟨t, rfl⟩ := h
  exact ⟨_, rfl⟩

theorem execStep_goesOn {s : State} (hI : s.Inv) (c : Level) : ∃ t, execStep c s = .next t := by
  have hpos := hI.position
  obtain ⟨-, heq⟩ | ⟨hb, heq⟩ | ⟨hp, heq⟩ | ⟨hp, heq⟩ | ⟨hp, heq⟩ | ⟨hp, heq⟩ | ⟨hp, heq⟩ | ⟨-, heq⟩ :=
    execStep_cases c s <;> rw [heq]
  · exact ⟨_, rfl⟩
  · exact finishStep_goesOn (stepRx_goesOn hI hb c)
  · obtain ⟨hidx, -⟩ := (position_txPre hp).1 hpos
    exact finishStep_goesOn (stepTxPre_goesOn (hI.patLength ▸ hI.idx_lt_pmax hidx))
  · obtain ⟨hcnt, -⟩ := (position_txMeta hp).1 hpos
    exact finishStep_goesOn (stepTxMeta_goesOn hcnt)
  · obtain ⟨hcnt, -⟩ := (position_txMck hp).1 hpos
    exact finishStep_goesOn (stepTxMck_goesOn hcnt)
  · obtain ⟨hcnt, hsize⟩ := (position_txPay hp).1 hpos
    exact finishStep_goesOn (stepTxPay_goesOn (hcnt.trans_le hsize))
  · obtain ⟨hcnt, -⟩ := (position_txPck hp).1 hpos
    exact finishStep_goesOn (stepTxPck_goesOn hcnt)
  · exact ⟨_, rfl⟩

/-- Only `STEP` needs the invariant: every other command answers a next state in every state. -/
theorem exec_goesOn {s : State} (hI : s.Inv) (i : Instr) : ∃ t, exec i s = .next t := by
  cases i with
  | step c => exact execStep_goesOn hI c
  | mrd j =>
    simp only [exec, execMrd]
    split <;> exact ⟨_, rfl⟩
  | rdsr r =>
    simp only [exec, execRdsr]
    split <;> exact ⟨_, rfl⟩
  | _ => exact ⟨_, rfl⟩

/-! ## The step -/

theorem step_of_illegal_word {s t : State} {w : CmdWord} {d : DecodeError} (h : s.takeEvent = (.word w, t))
    (hd : decode w = .error d) : step s = .next (t.refuse .illegal) := by
  simp only [step, h, hd]

/-- Taking an event keeps the invariant, whatever is presented. -/
theorem State.Inv.of_takeEvent {s t : State} {p : Presented} (hI : s.Inv) (h : s.takeEvent = (p, t)) : t.Inv := by
  cases hin : s.inputs with
  | nil =>
    obtain ⟨-, rfl⟩ := Prod.mk.inj ((takeEvent_of_nil hin).symm.trans h)
    exact hI
  | cons e rest =>
    obtain ⟨-, rfl⟩ := Prod.mk.inj ((takeEvent_of_cons hin).symm.trans h)
    exact hI.takeEvent rest e.lineIn

/-- Settles O53, by cases on what is presented: a legal word is a command, which goes on. -/
theorem everyStepGoesOn : Obligations.EveryStepGoesOn := by
  intro s hI
  obtain ⟨p, t, h⟩ : ∃ p t, s.takeEvent = (p, t) := ⟨_, _, rfl⟩
  cases p with
  | quiet => exact ⟨_, step_of_quiet h⟩
  | reset => exact ⟨_, step_of_reset h⟩
  | word w =>
    cases hd : decode w with
    | error d => exact ⟨_, step_of_illegal_word h hd⟩
    | ok i =>
      obtain ⟨u, hu⟩ := exec_goesOn (hI.of_takeEvent h) i
      exact ⟨u, (step_of_word h hd).trans hu⟩

end Sys2Proof.Machine
end

section
/-! Words as the host presents them (30_encoding.md R90): the sample words of V-ENC-1, and the word of a
command presented to the port. -/

namespace Sys2Proof.Machine

/-- Settles O1: each word decodes by evaluation of its row. -/
theorem sampleWordsDecodeAsListed : Obligations.SampleWordsDecodeAsListed := by
  unfold Obligations.SampleWordsDecodeAsListed
  and_intros <;> decide

theorem takeEvent_present (s : State) (w : CmdWord) : (s.present w).takeEvent = (.word w, s) := rfl

theorem withFetchWord_toNat (s : State) (n : Nat) (w : CmdWord) : s.withFetchWord n w.toNat = s.present w := by
  rw [State.withFetchWord, BitVec.ofNat_toNat, BitVec.setWidth_eq]

/-- Settles O7: the word presented is taken next, and it decodes to its instruction. -/
theorem fetchWordRunsNext : Obligations.FetchWordRunsNext := by
  intro s i hwf
  rw [withFetchWord_toNat]
  exact step_of_word (takeEvent_present s (encode i)) (decode_encode hwf)

end Sys2Proof.Machine
end

section
/-! The checksum as arithmetic (40_checksum.md R120, R121, R126): what the sum modulo `2^32` and its four
octets are, and which changes of a sequence of octets the sum shows. -/

namespace Sys2Proof.Machine

/-! ## The sum and its digest (R120, R121) -/

theorem cksum_toNat (os : List Octet) : (cksum os).toNat = (os.map BitVec.toNat).sum % 2 ^ 32 :=
  BitVec.toNat_ofNat _ _

theorem digest_getElem_toNat (a : BitVec 32) (k : Fin 4) :
    (digest a)[k].toNat = a.toNat / 2 ^ (24 - 8 * k.val) % 256 := by
  rw [digest_getElem, BitVec.extractLsb'_toNat, Nat.shiftRight_eq_div_pow]

/-- Settles O15, from the value of the sum and of each octet of the digest. -/
theorem digestIsTheBigEndianSum : Obligations.DigestIsTheBigEndianSum :=
  ⟨cksum_toNat, digest_getElem_toNat⟩

/-! ## What the sum shows (R126) -/

theorem zext32_toNat (o : Octet) : (zext32 o).toNat = o.toNat :=
  BitVec.toNat_setWidth_of_le (by decide)

theorem zext32_injective {a b : Octet} (h : zext32 a = zext32 b) : a = b := by
  apply BitVec.eq_of_toNat_eq
  rw [← zext32_toNat, h, zext32_toNat]

theorem zext32_add_congr {a b c d : Octet} (h : a.toNat + b.toNat = c.toNat + d.toNat) :
    zext32 a + zext32 b = zext32 c + zext32 d := by
  apply BitVec.eq_of_toNat_eq
  simp only [BitVec.toNat_add, zext32_toNat, h]

/-- The sum does not depend on the order of the octets (R126 (a)). -/
theorem cksum_perm {os ps : List Octet} (h : os.Perm ps) : cksum os = cksum ps :=
  congrArg (BitVec.ofNat 32) (h.map BitVec.toNat).sum_eq

/-- One octet inside a sequence adds its own value. -/
theorem cksum_append_cons (xs ys : List Octet) (a : Octet) :
    cksum (xs ++ a :: ys) = zext32 a + cksum (xs ++ ys) := by
  rw [cksum_perm List.perm_middle, cksum_cons]

/-- One changed octet changes the sum (R126 (b)): what the octet adds can be cancelled. -/
theorem cksum_ne_of_octet_ne (xs ys : List Octet) {a b : Octet} (h : a ≠ b) :
    cksum (xs ++ a :: ys) ≠ cksum (xs ++ b :: ys) := by
  rw [cksum_append_cons, cksum_append_cons]
  exact fun e => h (zext32_injective (add_right_cancel e))

/-- R126 (b), for the octet at an index. -/
theorem cksum_set_ne {os : List Octet} {i : Nat} {o : Octet} (hi : i < os.length) (h : os[i]? ≠ some o) :
    cksum (os.set i o) ≠ cksum os := by
  have hne : o ≠ os[i] := fun e => h (by rw [List.getElem?_eq_getElem hi, e])
  have hos : os = os.take i ++ os[i] :: os.drop (i + 1) := by
    rw [← List.drop_eq_getElem_cons hi, List.take_append_drop]
  rw [List.set_eq_take_append_cons_drop, if_pos hi, congrArg cksum hos]
  exact cksum_ne_of_octet_ne _ _ hne

/-- Settles O17, clause by clause from what one octet adds to the sum. -/
theorem checksumDetectsOneOctetButNotReordering : Obligations.ChecksumDetectsOneOctetButNotReordering := by
  refine ⟨fun _ _ => cksum_perm, fun xs ys a b => cksum_ne_of_octet_ne xs ys, fun xs ys zs a b c d h => ?_,
    fun xs ys => ?_⟩
  · have pair (a b : Octet) : cksum (xs ++ a :: ys ++ b :: zs) =
        zext32 a + zext32 b + cksum (xs ++ (ys ++ zs)) := by
      rw [cksum_append_cons, List.append_assoc, List.cons_append, cksum_append_cons, ← BitVec.add_assoc,
        BitVec.add_comm (zext32 b)]
    rw [pair, pair, zext32_add_congr h]
  · rw [cksum_append_cons]
    exact BitVec.zero_add _

end Sys2Proof.Machine
end

section
/-! The checksum commands (40_checksum.md R123 to R125, R127). -/

namespace Sys2Proof.Machine

/-! ## The words (30_encoding.md R91) -/

/-- The low octet of a word, as the bits that it sets. -/
theorem wordOf_eq_or (op a : BitVec 4) (d : Octet) : wordOf op a d = wordOf op a 0 ||| d.setWidth 16 := by
  apply BitVec.eq_of_getLsbD_eq
  intro i hi
  simp only [wordOf, BitVec.getLsbD_or, BitVec.getLsbD_append, BitVec.getLsbD_setWidth]
  by_cases h : i < 8
  · simp [h, hi]
  · simp [h, BitVec.getLsbD_of_ge d i (by omega)]

/-! ## The commands -/

theorem exec_ckclr_of_idle {s : State} (h : s.phase = .idle) :
    exec .ckclr s = .next { s with acc := 0, rsp := 0 } :=
  congrArg Host.Outcome.next (State.whenIdle_of_idle _ h)

theorem exec_ckadd_of_idle {s : State} (d : Octet) (h : s.phase = .idle) :
    exec (.ckadd d) s = .next { s with acc := s.acc + zext32 d, rsp := 0 } :=
  congrArg Host.Outcome.next (State.whenIdle_of_idle _ h)

theorem exec_ckrd (k : Fin 4) (s : State) :
    exec (.ckrd k) s = .next { s with rsp := (digest s.acc)[k] } := rfl

/-- Settles O12, by the state check of R282. -/
theorem ckclrClearsTheAccumulator : Obligations.CkclrClearsTheAccumulator :=
  ⟨by decide, fun _ => ⟨exec_ckclr_of_idle, fun h => congrArg Host.Outcome.next (State.whenIdle_of_busy _ h)⟩⟩

/-- Settles O13: the sum of 32-bit words is the sum of their values modulo `2^32`. -/
theorem ckaddAddsAnOctetModulo2To32 : Obligations.CkaddAddsAnOctetModulo2To32 := by
  intro s d
  refine ⟨wordOf_eq_or 2 0 d, fun h => ⟨_, exec_ckadd_of_idle d h, ?_, rfl, rfl⟩, fun h => ?_⟩
  · rw [BitVec.toNat_add, zext32_toNat]
  · exact congrArg Host.Outcome.next (State.whenIdle_of_busy _ h)

/-- Settles O14, from the value of one octet of the digest. -/
theorem ckrdReadsOneDigestOctet : Obligations.CkrdReadsOneDigestOctet := by
  intro s k
  have hword : ∀ k : Fin 4, encode (.ckrd k) = 0x3000#16 + BitVec.ofNat 16 k.val := by decide
  exact ⟨hword k, _, exec_ckrd k s, digest_getElem_toNat s.acc k, rfl⟩

/-! ## The commands in a row (R127) -/

theorem runCommands_cons_of_next {i : Instr} {is : List Instr} {s t : State} (h : exec i s = .next t) :
    runCommands (i :: is) s = runCommands is t := by
  rw [runCommands, h, nextState, Option.bind_some]

/-- One `CKADD` for each octet adds the checksum of the octets. -/
theorem runCommands_ckadds (os : List Octet) {s : State} (h : s.phase = .idle) :
    ∃ v, runCommands (os.map .ckadd) s = some { s with acc := s.acc + cksum os, rsp := v } := by
  induction os generalizing s with
  | nil => exact ⟨s.rsp, by simp [runCommands]⟩
  | cons o os ih =>
    obtain ⟨v, hv⟩ := ih (s := { s with acc := s.acc + zext32 o, rsp := 0 }) h
    refine ⟨v, ?_⟩
    rw [List.map_cons, runCommands_cons_of_next (exec_ckadd_of_idle o h), hv, cksum_cons, BitVec.add_assoc]

/-- `CKCLR`, then one `CKADD` for each octet, leave the checksum of the octets. -/
theorem runCommands_ckclr_ckadds (os : List Octet) {s : State} (h : s.phase = .idle) :
    ∃ v, runCommands (.ckclr :: os.map .ckadd) s = some { s with acc := cksum os, rsp := v } := by
  obtain ⟨v, hv⟩ := runCommands_ckadds os (s := { s with acc := 0, rsp := 0 }) h
  have hsum : (0 : BitVec 32) + cksum os = cksum os := BitVec.zero_add _
  refine ⟨v, ?_⟩
  rw [runCommands_cons_of_next (exec_ckclr_of_idle h), hv, hsum]

/-- `CKRD` in a row change the response alone. -/
theorem runCommands_ckrds (ks : List (Fin 4)) (s : State) :
    ∃ v, runCommands (ks.map .ckrd) s = some { s with rsp := v } := by
  induction ks generalizing s with
  | nil => exact ⟨s.rsp, rfl⟩
  | cons k ks ih =>
    rw [List.map_cons, runCommands_cons_of_next (exec_ckrd k s)]
    exact ih _

/-- After `CKRD` in a row the response is the octet that the last of them reads. -/
theorem runCommands_ckrds_concat (ks : List (Fin 4)) (k : Fin 4) (s : State) :
    runCommands ((ks ++ [k]).map .ckrd) s = some { s with rsp := (digest s.acc)[k] } := by
  obtain ⟨v, hv⟩ := runCommands_ckrds ks s
  rw [List.map_append, runCommands_append, hv, Option.bind_some]
  rfl

theorem take_finRange_succ {n : Nat} (k : Fin n) :
    (List.finRange n).take (k.val + 1) = (List.finRange n).take k.val ++ [k] := by
  rw [List.take_add_one, List.getElem?_eq_getElem (by simp), List.getElem_finRange]
  rfl

/-- Settles O16: the accumulator takes the checksum of the octets (`runCommands_ckclr_ckadds`) and is
read octet by octet (`runCommands_ckrds_concat`). -/
theorem checksumSequenceReturnsTheDigest : Obligations.ChecksumSequenceReturnsTheDigest := by
  intro s os k h
  obtain ⟨v, hv⟩ := runCommands_ckclr_ckadds os h
  refine ⟨{ s with acc := cksum os, rsp := (digest (cksum os))[k] }, ?_, rfl, rfl⟩
  rw [runCommands_append, hv, Option.bind_some, take_finRange_succ, runCommands_ckrds_concat]

end Sys2Proof.Machine
end

section
/-! A read of a corrupt frame (43_frame_rx.md R206, R210; 95_test_vectors.md S2): the checksum received is
not the sum of the octets received, and the read fails where the two are compared. -/

namespace Sys2Proof.Machine

open Sys2Proof.Claims

/-- `s` at the end of a read whose checksum `d`, after a segment of `n` octets, does not verify. -/
def corruptAt (s : State) (n : Nat) (d : Digest) : State :=
  State.failRead { s with rxck := d, bcnt := BitVec.ofNat 17 (n + 4) } .integrityFailure

/-- A checksum that is not that of the record received (R206). -/
theorem samples_recordChecksum_corrupt (s : State) (m : MetaRecord) {d : Digest}
    (hd : d ≠ digest (cksum m.toList)) :
    Samples { s.start .rxHeader with hdr := m, acc := cksum m.toList, bcnt := 6 } (octetsBits d.toList)
      (corruptAt { s.start .rxHeader with hdr := m, acc := cksum m.toList } 6 d) := by
  refine Samples.checksum (s := { s.start .rxHeader with hdr := m, acc := cksum m.toList }) (n := 6) d (.inl rfl)
    (fun k w r u v hk => ?_) fun w r u v hw => ?_
  · exact .headerSumOctet_at rfl rfl (bcnt_ofNat_toNat (by omega)) hk
  · subst hw
    exact .headerCorrupt rfl rfl rfl (bcnt_ofNat_toNat (by decide)) hd

/-- A checksum that is not that of the payload received (R210). -/
theorem samples_payloadChecksum_corrupt (s : State) (os : List Octet) (hl : os.length = s.rxSize) {d : Digest}
    (hd : d ≠ digest (cksum os)) :
    Samples (payloadAt s os os.length) (octetsBits d.toList)
      (corruptAt (payloadAt s os os.length) os.length d) := by
  have hsize := rxSize_lt s
  have hcount (k : Nat) (hk : k ≤ 3) : (BitVec.ofNat 17 (os.length + k)).toNat = s.rxSize + k := by
    rw [bcnt_ofNat_toNat (by omega), hl]
  have hacc : d ≠ digest (payloadAt s os os.length).acc := by
    rwa [payloadAt, List.take_length]
  refine Samples.checksum (s := payloadAt s os os.length) (n := os.length) d (.inr rfl)
    (fun k w r u v hk => ?_) fun w r u v hw => ?_
  · exact .payloadSumOctet_at rfl rfl (hcount k hk.le) hk
  · rw [corruptAt, ← bcnt_ofNat_succ (os.length + 3)]
    subst hw
    exact .payloadCorrupt rfl rfl rfl (hcount 3 le_rfl) hacc

/-! ## The two corrupt frames -/

/-- A frame up to its first checksum, which is not that of its record, sampled from the beginning of a
block. -/
theorem samples_recordCorrupt (s : State) (m : MetaRecord) {d : Digest} (hp : s.plen.toNat ≤ s.pat.length)
    (hb : s.plen.toNat ≤ s.mbuf.length) (h0 : s.plen ≠ 0) (hd : d ≠ digest (cksum m.toList)) :
    Samples (s.start .rxSync) (s.preamble ++ octetsBits m.toList ++ octetsBits d.toList)
      (corruptAt { (matchBufferAt s s.preamble s.plen.toNat).start .rxHeader with
        hdr := m, acc := cksum m.toList } 6 d) :=
  ((samples_rxSync s hp hb h0).append (samples_record _ m)).append (samples_recordChecksum_corrupt _ m hd)

/-- `s` with the preamble, the record `m` and its checksum sampled. -/
def headerSampled (s : State) (m : MetaRecord) : State :=
  { matchBufferAt s s.preamble s.plen.toNat with hdr := m, rxm := m, rxck := digest (cksum m.toList) }

/-- A frame up to its first checksum, which verifies. -/
theorem samples_header (s : State) (m : MetaRecord) (hp : s.plen.toNat ≤ s.pat.length)
    (hb : s.plen.toNat ≤ s.mbuf.length) (h0 : s.plen ≠ 0) (hm : (metaSize m).toNat ≤ s.params.maxPayload) :
    Samples (s.start .rxSync) (s.preamble ++ octetsBits m.toList ++ checksumBits m.toList)
      ((headerSampled s m).start .rxPayload) :=
  ((samples_rxSync s hp hb h0).append (samples_record _ m)).append (samples_recordChecksum _ m hm)

/-- A frame whose second checksum is not that of its payload, sampled from the beginning of a block. -/
theorem samples_payloadCorrupt (s : State) (m : MetaRecord) (os : List Octet) {d : Digest}
    (hp : s.plen.toNat ≤ s.pat.length) (hb : s.plen.toNat ≤ s.mbuf.length) (h0 : s.plen ≠ 0)
    (hl : os.length = (metaSize m).toNat) (hm : (metaSize m).toNat ≤ s.params.maxPayload)
    (hd : d ≠ digest (cksum os)) :
    Samples (s.start .rxSync)
      (s.preamble ++ octetsBits m.toList ++ checksumBits m.toList ++ octetsBits os ++ octetsBits d.toList)
      (corruptAt (payloadAt (headerSampled s m) os os.length) os.length d) :=
  ((samples_header s m hp hb h0 hm).append (samples_payload (headerSampled s m) os hl.le hm)).append
    (samples_payloadChecksum_corrupt (headerSampled s m) os hl hd)

/-! ## The outcome (R262) -/

theorem failedUnpublished_corruptAt {s a : State} (n : Nat) (d : Digest) (hok : a.ok = false)
    (hpub : a.pub = s.pub) (hlen : a.publen = s.publen) : failedUnpublished s (corruptAt a n d) :=
  ⟨rfl, rfl, rfl, hok, hpub, hlen⟩

/-- A run of samples to a state that has failed ends in a state that has failed, with the same `RXM`. -/
theorem Samples.fails {s a b : State} {us : List Level} (h : Samples a us b)
    (hb : failedUnpublished s b) : ∃ u, sampleUnits us a = some u ∧ failedUnpublished s u ∧ u.rxm = b.rxm := by
  obtain ⟨r, l, v, hu⟩ := h a.shreg a.lineIn a.rsp
  exact ⟨_, hu, hb, rfl⟩

/-- The digest of octets is not that of the octets with one of them changed (R126 (b)). -/
theorem digest_ne_of_set {os : List Octet} {i : Nat} {o : Octet} (hi : i < os.length) (h : os[i]? ≠ some o) :
    digest (cksum os) ≠ digest (cksum (os.set i o)) :=
  fun e => cksum_set_ne hi h (digest_injective e).symm

/-- Settles O47: the checksum sent is not that of the octets received (`digest_ne_of_set`), so the read
fails at the end of the header or of the payload. -/
theorem oneChangedOctetFailsTheRead : Obligations.OneChangedOctetFailsTheRead := by
  intro s record payload o hs hidle h0 hl hm
  have hp : s.plen.toNat ≤ s.pat.length := hs.patLength ▸ hs.plen
  have hb : s.plen.toNat ≤ s.mbuf.length := hs.mbufLength ▸ hs.plen
  refine ⟨_, exec_poll_of_idle hidle h0, fun i hi => ?_, fun i hi hne => ?_⟩
  · have hd : digest (cksum record.toList) ≠ digest (cksum (record.set i o).toList) := by
      rw [Vector.toList_set]
      exact digest_ne_of_set (by simp) (by simpa using hi)
    exact (samples_recordCorrupt { s.clearOutcome with dir := false, rsp := 0 } (record.set i o) hp hb h0
      hd).fails (failedUnpublished_corruptAt 6 _ rfl rfl rfl)
  · exact (samples_payloadCorrupt { s.clearOutcome with dir := false, rsp := 0 } record (payload.set i o) hp hb h0
      (List.length_set.trans hl) (hl ▸ hm) (digest_ne_of_set hi hne)).fails
      (failedUnpublished_corruptAt _ _ rfl rfl rfl)

end Sys2Proof.Machine
end

section
/-! The configuration and buffer commands (41_config_buffers.md R140 to R146). -/

namespace Sys2Proof.Machine

/-! ## The words (30_encoding.md R91) -/

/-- Field `a` of a word, as the bits that it sets. -/
theorem wordOf_zero_eq_or (op a : BitVec 4) : wordOf op a 0 = wordOf op 0 0 ||| a.setWidth 16 <<< 8 := by
  apply BitVec.eq_of_getLsbD_eq
  intro i hi
  simp only [wordOf, BitVec.getLsbD_or, BitVec.getLsbD_append, BitVec.getLsbD_shiftLeft, BitVec.getLsbD_setWidth]
  by_cases h : i < 8
  · simp [h]
  · by_cases h' : i - 8 < 4
    · simp [h, h', hi, show i - 8 < 16 by omega]
    · simp [h, h', BitVec.getLsbD_of_ge a (i - 8) (by omega)]

/-- A word as the bits that its fields set. -/
theorem wordOf_eq_or_or (op a : BitVec 4) (d : Octet) :
    wordOf op a d = wordOf op 0 0 ||| a.setWidth 16 <<< 8 ||| d.setWidth 16 := by
  rw [wordOf_eq_or, wordOf_zero_eq_or]

/-- A flag in field `a`, as a number. -/
theorem setWidth_flag (b : Level) : (0#3 ++ BitVec.ofBool b).setWidth 16 = BitVec.ofNat 16 b.toNat := by
  cases b <;> rfl

/-! ## The checks of a command (60_exceptions.md R282, R283) -/

section
variable {s : State} (t : State)

theorem next_whenIdle_of_busy (h : s.phase ≠ .idle) :
    (.next (s.whenIdle t) : Host.Outcome State Fault Refusal) = .next (s.refuse .state) :=
  congrArg Host.Outcome.next (State.whenIdle_of_busy t h)

variable {p : Prop} [Decidable p]

theorem next_whenInRange_of_not (hp : ¬p) :
    (.next (s.whenInRange (decide p) t) : Host.Outcome State Fault Refusal) = .next (s.refuse .range) := by
  rw [decide_eq_false hp, State.whenInRange_false]

theorem next_whenInRange_of_holds (hp : p) :
    (.next (s.whenInRange (decide p) t) : Host.Outcome State Fault Refusal) = .next t := by
  rw [decide_eq_true hp, State.whenInRange_true]

theorem next_checked_of_not (h : s.phase = .idle) (hp : ¬p) :
    (.next (s.whenIdle (s.whenInRange (decide p) t)) : Host.Outcome State Fault Refusal) =
      .next (s.refuse .range) := by
  rw [State.whenIdle_of_idle _ h, next_whenInRange_of_not t hp]

theorem next_checked_of_holds (h : s.phase = .idle) (hp : p) :
    (.next (s.whenIdle (s.whenInRange (decide p) t)) : Host.Outcome State Fault Refusal) = .next t := by
  rw [State.whenIdle_of_idle _ h, next_whenInRange_of_holds t hp]

end

/-! ## The pointer and the buffers (R144 to R146) -/

/-- A cell depends on its buffer and on the number of `RESET` events alone. -/
theorem State.cell_congr {s t : State} {b : Buffer} {i : Nat} (hr : t.resets = s.resets)
    (h : (t.buffer b).get? i = (s.buffer b).get? i) : t.cell b i = s.cell b i := by
  rw [State.cell, State.cell, h, hr]

/-- The state after an executed `TXWR d` (R145). -/
def afterTxwr (s : State) (d : Octet) : State :=
  { s with txbuf := Memory.write s.txbuf s.ptr.toNat d, ptr := s.ptr + 1, rsp := 0 }

theorem exec_txwr_of_holds {s : State} (d : Octet) (h : s.phase = .idle)
    (hp : s.ptr.toNat < s.params.maxPayload) : exec (.txwr d) s = .next (afterTxwr s d) :=
  next_checked_of_holds _ h hp

theorem afterTxwr_cell_self (s : State) (d : Octet) : (afterTxwr s d).cell .txbuf s.ptr.toNat = d :=
  State.cell_of_get? (Memory.get?_write_self s.txbuf s.ptr.toNat d)

theorem afterTxwr_cell_of_ne {s : State} (d : Octet) {b : Buffer} {i : Nat}
    (h : ¬(b = .txbuf ∧ i = s.ptr.toNat)) : (afterTxwr s d).cell b i = s.cell b i := by
  refine State.cell_congr (s := s) rfl ?_
  cases b with
  | txbuf => exact Memory.get?_write_of_ne s.txbuf d fun hi => h ⟨rfl, hi⟩
  | stage => rfl
  | pub => rfl

/-- Settles O23, from what the cells read after the store. -/
theorem txwrStoresAtThePointer : Obligations.TxwrStoresAtThePointer := by
  intro s d
  refine ⟨wordOf_eq_or 9 0 d, next_whenIdle_of_busy _, fun h hp => ?_, fun h hp => ?_⟩
  · exact next_checked_of_not _ h (Nat.not_lt.2 hp)
  · exact ⟨_, exec_txwr_of_holds d h hp, afterTxwr_cell_self s d, fun _ _ => afterTxwr_cell_of_ne d,
      BitVec.toNat_add s.ptr 1, rfl, rfl⟩

/-- Settles O24, by the range check of `PTR` against `PUBLEN`. -/
theorem rxrdLoadsAtThePointer : Obligations.RxrdLoadsAtThePointer := by
  refine ⟨by decide, fun s => ⟨fun h => ?_, fun h => ?_⟩⟩
  · exact next_whenInRange_of_not _ (Nat.not_lt.2 h)
  · exact ⟨_, next_whenInRange_of_holds _ (BitVec.lt_def.2 h), rfl, BitVec.toNat_add s.ptr 1, rfl⟩

theorem setHalf_toNat (v : BitVec 16) (h : Level) (d : Octet) :
    (setHalf v h d).toNat = if h then 256 * d.toNat + v.toNat % 256 else 256 * (v.toNat / 256) + d.toNat := by
  cases h
  · rw [setHalf_low, Nat.mul_comm]; rfl
  · rw [setHalf_high, Nat.mul_comm]; rfl

/-- Settles O22, from the value of the pointer with one half replaced. -/
theorem ptrSetsOneHalfOfThePointer : Obligations.PtrSetsOneHalfOfThePointer := by
  intro s h d
  refine ⟨?_, _, rfl, setHalf_toNat s.ptr h d, rfl, rfl⟩
  rw [encode, wordOf_eq_or_or, setWidth_flag]
  rfl

/-! ## The preamble (R140, R141) -/

/-- Settles O18, by the checks of R282 and R283. -/
theorem plenSetsThePreambleLength : Obligations.PlenSetsThePreambleLength := by
  intro s n hn
  refine ⟨?_, next_whenIdle_of_busy _, fun h hr => ?_, fun h h1 hmax => ?_⟩
  · rw [encode, wordOf_eq_or, BitVec.setWidth_ofNat_of_le_of_lt (by decide) hn]
    rfl
  · exact next_checked_of_not _ h (by omega)
  · exact ⟨_, next_checked_of_holds _ h ⟨h1, hmax⟩, ofNat_toNat_of_fits (decide_eq_true hn), rfl, rfl⟩

/-- Settles O19: the element set lies inside `PAT`, which has `PMAX` elements. -/
theorem psetSetsOnePreambleElement : Obligations.PsetSetsOnePreambleElement := by
  intro s i b hi hlen
  refine ⟨?_, next_whenIdle_of_busy _, fun h hr => ?_, fun h hr => ?_⟩
  · rw [encode, wordOf_eq_or_or, setWidth_flag, BitVec.setWidth_ofNat_of_le_of_lt (by decide) hi]
    rfl
  · exact next_checked_of_not _ h (Nat.not_lt.2 hr)
  · exact ⟨_, next_checked_of_holds _ h hr, List.getElem?_set_self (hlen ▸ hr),
      fun _ hj => List.getElem?_set_ne hj.symm, rfl, rfl⟩

/-! ## The metadata (R142, R143) -/

theorem metaId_toNat (m : MetaRecord) : (metaId m).toNat = m[3].toNat * 256 + m[2].toNat :=
  toNat_append_eq m[3] m[2]

theorem metaTiming_toNat (m : MetaRecord) : (metaTiming m).toNat = m[5].toNat * 256 + m[4].toNat :=
  toNat_append_eq m[5] m[4]

/-- Settles O20, from the value of each part of the record and the octet set. -/
theorem msetSetsOneMetadataOctet : Obligations.MsetSetsOneMetadataOctet := by
  refine ⟨fun m => ?_, fun s j d hj => ⟨?_, next_whenIdle_of_busy _, fun h hr => ?_, fun h hr => ?_⟩⟩
  · rw [metaSize_toNat, metaId_toNat, metaTiming_toNat]
    omega
  · rw [encode, wordOf_eq_or_or, BitVec.setWidth_ofNat_of_le_of_lt (by decide) hj]
    rfl
  · exact next_checked_of_not _ h (Nat.not_lt.2 hr)
  · exact ⟨_, next_checked_of_holds _ h hr, Vector.getElem?_setIfInBounds_self_of_lt hr,
      fun _ hk => Vector.getElem?_setIfInBounds_ne hk.symm, rfl, rfl⟩

theorem exec_mrd_of_some {s : State} {j : Nat} {v : Octet} (h : s.rxm[j]? = some v) :
    exec (.mrd j) s = .next { s with rsp := v } := by
  simp only [exec, execMrd, h]
  rfl

theorem exec_mrd_of_none {s : State} {j : Nat} (h : s.rxm[j]? = none) :
    exec (.mrd j) s = .next (s.refuse .range) := by
  simp only [exec, execMrd, h]

/-- Settles O21, by whether octet `j` of the record exists. -/
theorem mrdReadsOneMetadataOctet : Obligations.MrdReadsOneMetadataOctet := by
  intro s j hj
  refine ⟨?_, fun h => ?_, fun h => ?_⟩
  · rw [encode, wordOf_zero_eq_or, BitVec.setWidth_ofNat_of_le_of_lt (by decide) hj]
    rfl
  · exact exec_mrd_of_none (Vector.getElem?_eq_none h)
  · have hv := Vector.getElem?_eq_getElem h (xs := s.rxm)
    exact ⟨_, hv, exec_mrd_of_some hv⟩

end Sys2Proof.Machine
end

section
/-! The accumulator as the running checksum of the segment in progress (42_frame_tx.md R176 to R179,
43_frame_rx.md R205 to R209): what each rule of the engine and each command does to the sum. -/

namespace Sys2Proof.Machine

/-! ## The sum, by phase -/

theorem sum_idle {s : State} (h : s.phase = .idle) : s.sumIsRunning := by
  simp only [State.sumIsRunning, h]

theorem sum_rxHeader {s : State} (h : s.phase = .rxHeader) :
    s.sumIsRunning ↔ s.acc = cksum (s.hdr.toList.take s.bcnt.toNat) := by
  simp only [State.sumIsRunning, h]

/-- In the checksum of the header the sum covers the whole record. -/
theorem sum_rxHeaderSum {s : State} (h : s.phase = .rxHeader) (hl : 6 ≤ s.bcnt.toNat) :
    s.sumIsRunning ↔ s.acc = cksum s.hdr.toList := by
  rw [sum_rxHeader h, List.take_of_length_le (s.hdr.length_toList.trans_le hl)]

theorem sum_rxPayload {s : State} (h : s.phase = .rxPayload) :
    s.sumIsRunning ↔ s.acc = cksum (s.cells .stage (min s.bcnt.toNat s.rxSize)) := by
  simp only [State.sumIsRunning, h]

theorem sum_rxPayloadData {s : State} (h : s.phase = .rxPayload) (hn : s.bcnt.toNat ≤ s.rxSize) :
    s.sumIsRunning ↔ s.acc = cksum (s.cells .stage s.bcnt.toNat) := by
  rw [sum_rxPayload h, Nat.min_eq_left hn]

/-- In the checksum of the payload the sum covers the whole payload. -/
theorem sum_rxPayloadSum {s : State} (h : s.phase = .rxPayload) (hl : s.rxSize ≤ s.bcnt.toNat) :
    s.sumIsRunning ↔ s.acc = cksum (s.cells .stage s.rxSize) := by
  rw [sum_rxPayload h, Nat.min_eq_right hl]

theorem sum_txPre {s : State} (h : s.phase = .txPre) : s.sumIsRunning ↔ s.acc = 0 := by
  simp only [State.sumIsRunning, h]

theorem sum_txMeta {s : State} (h : s.phase = .txMeta) :
    s.sumIsRunning ↔ s.acc = cksum (s.txm.toList.take s.absorbedOctets) := by
  simp only [State.sumIsRunning, h]

theorem sum_txMck {s : State} (h : s.phase = .txMck) : s.sumIsRunning ↔ s.acc = cksum s.txm.toList := by
  simp only [State.sumIsRunning, h]

theorem sum_txPay {s : State} (h : s.phase = .txPay) :
    s.sumIsRunning ↔ s.acc = cksum (s.cells .txbuf s.absorbedOctets) := by
  simp only [State.sumIsRunning, h]

theorem sum_txPck {s : State} (h : s.phase = .txPck) :
    s.sumIsRunning ↔ s.acc = cksum (s.cells .txbuf (metaSize s.txm).toNat) := by
  simp only [State.sumIsRunning, h]

/-! ## The octets absorbed in a send (R176, R178) -/

theorem absorbedOctets_of_eq {s : State} (h : s.bitcnt = 0) : s.absorbedOctets = s.bcnt.toNat := by
  rw [State.absorbedOctets, if_pos h, Nat.add_zero]

theorem absorbedOctets_of_ne {s : State} (h : s.bitcnt ≠ 0) : s.absorbedOctets = s.bcnt.toNat + 1 := by
  rw [State.absorbedOctets, if_neg h]

theorem absorbedOctets_of_seven {s : State} (h : s.bitcnt = 7) : s.absorbedOctets = s.bcnt.toNat + 1 :=
  absorbedOctets_of_ne (by rw [h]; decide)

/-- The eighth bit counts the octet that was absorbed with the first. -/
theorem absorbedOctets_counted {s t : State} (h : s.bitcnt = 7) (hlt : s.bcnt.toNat < 65540) (hb : t.bitcnt = 0)
    (hc : t.bcnt = s.bcnt + 1) : t.absorbedOctets = s.absorbedOctets := by
  rw [absorbedOctets_of_eq hb, absorbedOctets_of_seven h, hc, bcnt_succ_toNat hlt]

theorem bitcnt_succ_ne_zero {b : BitVec 3} (h : b ≠ 7) : b + 1 ≠ 0 := by
  bv_omega

/-- The octet `o` at `BCNT` is absorbed with its first bit, so that the sum over the octets absorbed
covers it once any of its bits is driven. `A k` is the sum over the first `k` octets. -/
theorem accWith_of_sum {s : State} {o : Octet} {A : Nat → BitVec 32} (h : s.acc = A s.absorbedOctets)
    (ho : A (s.bcnt.toNat + 1) = A s.bcnt.toNat + zext32 o) : s.accWith o = A (s.bcnt.toNat + 1) := by
  by_cases hb : s.bitcnt = 0
  · rw [absorbedOctets_of_eq hb] at h
    rw [State.accWith, if_pos hb, h, ho]
  · rw [absorbedOctets_of_ne hb] at h
    rw [State.accWith, if_neg hb, h]

theorem cksum_cells_succ (s : State) (b : Buffer) (k : Nat) :
    cksum (s.cells b (k + 1)) = cksum (s.cells b k) + zext32 (s.cell b k) := by
  rw [State.cells_succ, cksum_concat]

theorem cksum_record_succ {m : MetaRecord} {k : Nat} {o : Octet} (h : m[k]? = some o) :
    cksum (m.toList.take (k + 1)) = cksum (m.toList.take k) + zext32 o :=
  cksum_take_succ (by simpa using h)

/-- At the last bit of TX_META the whole record is absorbed (R176). -/
theorem sum_txMeta_last {s : State} (h : s.phase = .txMeta) (hb : s.bitcnt = 7) (hn : s.bcnt.toNat = 5)
    (hs : s.sumIsRunning) : s.acc = cksum s.txm.toList := by
  rw [sum_txMeta h, absorbedOctets_of_seven hb, hn, List.take_of_length_le s.txm.length_toList.le] at hs
  exact hs

/-! ## The octets absorbed in a read (R205, R208) -/

/-- `STAGE` with one octet more, its cells in order. -/
theorem cells_stage_write (s : State) (k : Nat) (o : Octet) :
    State.cells { s with stage := Memory.write s.stage k o } .stage (k + 1) = s.cells .stage k ++ [o] := by
  rw [State.cells_succ]
  refine congrArg₂ (· ++ [·]) (State.cells_congr fun i hi => ?_) (State.cell_of_get? (Memory.get?_write_self _ _ _))
  exact State.cell_congr rfl (Memory.get?_write_of_ne _ _ hi.ne)

/-! ## The engine -/

/-- Every rule of the engine keeps the sum: it absorbs the octet that it counts or begins to drive, or it
starts a segment with the accumulator cleared. -/
theorem StepEffect.keeps_sum {c : Level} {s t : State} (hI : s.Inv) (hs : s.sumIsRunning) (h : StepEffect c s t) :
    t.sumIsRunning := by
  cases h with
  | refused h | sampled h | mismatched h => exact hs
  | stoppedSync | stopped | headerCorrupt | headerOversize | payloadCorrupt | payloadVerified | released =>
    exact sum_idle rfl
  | matched | headerVerified => rfl
  | shifted h =>
    rcases h with h | h
    · exact Iff.mpr (sum_rxHeader h) ((sum_rxHeader h).1 hs)
    · exact Iff.mpr (sum_rxPayload h) ((sum_rxPayload h).1 hs)
  | headerOctet h hc hb hn =>
    refine Iff.mpr (sum_rxHeader h) ?_
    dsimp only
    rw [bcnt_succ_toNat (by omega), take_setIfInBounds_succ _ _ hn, cksum_concat, (sum_rxHeader h).1 hs]
  | headerSumOctet h hc hb hl hn =>
    have hcnt : (s.bcnt + 1).toNat = s.bcnt.toNat + 1 := bcnt_succ_toNat (by omega)
    exact Iff.mpr (sum_rxHeaderSum h (hl.trans (hcnt ▸ Nat.le_succ _))) ((sum_rxHeaderSum h hl).1 hs)
  | payloadOctet h hc hb hn hm =>
    have hsize := rxSize_lt s
    have hcnt : (s.bcnt + 1).toNat = s.bcnt.toNat + 1 := bcnt_succ_toNat (by omega)
    refine Iff.mpr (sum_rxPayloadData h (hcnt.trans_le hn)) ?_
    dsimp only
    rw [hcnt, (sum_rxPayloadData h hn.le).1 hs, ← cksum_concat, ← cells_stage_write]
    rfl
  | payloadSumOctet h hc hb hl hn =>
    have hsize := rxSize_lt s
    have hcnt : (s.bcnt + 1).toNat = s.bcnt.toNat + 1 := bcnt_succ_toNat (by omega)
    exact Iff.mpr (sum_rxPayloadSum h (hl.trans (hcnt ▸ Nat.le_succ _))) ((sum_rxPayloadSum h hl).1 hs)
  | preambleElement u h => exact Iff.mpr (sum_txPre h) ((sum_txPre h).1 hs)
  | preambleEnd u h => exact (sum_txPre h).1 hs
  | metaBit o h ho hb =>
    refine Iff.mpr (sum_txMeta h) ?_
    rw [absorbedOctets_of_ne (bitcnt_succ_ne_zero hb)]
    exact accWith_of_sum (A := fun k => cksum (s.txm.toList.take k)) ((sum_txMeta h).1 hs) (cksum_record_succ ho)
  | metaOctet o h ho hb hn =>
    refine Iff.mpr (sum_txMeta h) ?_
    rw [absorbedOctets_counted hb (by omega) rfl rfl]
    exact (sum_txMeta h).1 hs
  | metaEnd o h ho hb hn =>
    have hsum := sum_txMeta_last h hb hn hs
    exact hsum
  | metaSumBit o h | metaSumOctet o h => exact Iff.mpr (sum_txMck h) ((sum_txMck h).1 hs)
  | metaSumEnd o h ho hb hn =>
    by_cases h0 : metaSize s.txm = 0
    · refine (sum_txPck (if_pos h0)).2 ?_
      dsimp only
      rw [h0]
      rfl
    · exact (sum_txPay (if_neg h0)).2 rfl
  | payBit h ho hb =>
    refine Iff.mpr (sum_txPay h) ?_
    rw [absorbedOctets_of_ne (bitcnt_succ_ne_zero hb)]
    exact accWith_of_sum (A := fun k => cksum (s.cells .txbuf k)) ((sum_txPay h).1 hs) (cksum_cells_succ s .txbuf _)
  | payOctet h ho hb hn =>
    obtain ⟨hlt, -⟩ := (position_txPay h).1 hI.position
    have hsize := (metaSize s.txm).isLt
    refine Iff.mpr (sum_txPay h) ?_
    rw [absorbedOctets_counted hb (by omega) rfl rfl]
    exact (sum_txPay h).1 hs
  | payEnd h ho hb hn =>
    obtain ⟨hlt, -⟩ := (position_txPay h).1 hI.position
    have hsize := (metaSize s.txm).isLt
    have hsum := (sum_txPay h).1 hs
    rw [bcnt_succ_toNat (by omega)] at hn
    rw [absorbedOctets_of_seven hb, hn] at hsum
    exact hsum
  | paySumBit o h | paySumOctet o h => exact Iff.mpr (sum_txPck h) ((sum_txPck h).1 hs)
  | paySumEnd o h => exact (sum_txPck h).1 hs

/-! ## The commands -/

/-- The host's own checksum commands execute in `IDLE` alone, where no segment is in progress (R311), and
a start clears the accumulator. -/
theorem CommandEffect.keeps_sum {i : Instr} {s t : State} (hI : s.Inv) (hs : s.sumIsRunning)
    (h : CommandEffect s i t) : t.sumIsRunning := by
  cases h with
  | refused | answered | errclr | ptr | rxrd => exact hs
  | ckclr h | ckadd _ h | plen _ h | pset _ _ h | mset _ _ h | txwr _ h => exact sum_idle h
  | poll | send => rfl
  | step c _ h => exact h.keeps_sum hI hs

/-- Settles O54, by cases on what a step can do: nothing, a `RESET`, a refusal or a command. -/
theorem everyStepKeepsTheRunningChecksum : Obligations.EveryStepKeepsTheRunningChecksum := by
  intro s t hI hs h
  obtain ⟨-, rfl⟩ | ⟨e, rest, -, hcase⟩ := step_cases h
  · exact hs
  · have hT : State.sumIsRunning { s with inputs := rest, lineIn := e.lineIn } := hs
    obtain ⟨-, -, rfl⟩ | ⟨-, rfl⟩ | ⟨w, d, -, -, -, rfl⟩ | ⟨w, i, -, -, -, hx⟩ := hcase
    · exact hT
    · exact sum_idle rfl
    · exact hT
    · exact (exec_next_effect hx).keeps_sum (hI.takeEvent rest e.lineIn) hT

end Sys2Proof.Machine
end

section
/-! The rules of a send one by one (42_frame_tx.md R170, R173 to R180): each is completed by one effect of
`StepEffect`. -/

namespace Sys2Proof.Machine

open Sys2Proof.Claims

/-! ## The start and the end (R170, R180) -/

/-- Settles O28, by the checks of R282 and R283. -/
theorem sendStartsATransmission : Obligations.SendStartsATransmission := by
  refine ⟨by decide, fun s => ⟨next_whenIdle_of_busy _, fun h hr => ?_, exec_send_of_idle⟩⟩
  refine next_checked_of_not (p := s.plen ≠ 0 ∧ (metaSize s.txm).toNat ≤ s.params.maxPayload) _ h ?_
  rintro ⟨hplen, hsize⟩
  exact hr.elim hplen hsize.not_gt

/-- Settles O36. -/
theorem txEndReleasesTheLine : Obligations.TxEndReleasesTheLine :=
  fun _ _ h => execStep_of_effect (.released h)

/-! ## What no rule of a send looks at (R173) -/

theorem not_rxBusy_of_txBusy {s : State} (h : s.txBusy = true) : ¬s.rxBusy = true :=
  fun hr => absurd ((txBusy_of_rxBusy hr).symm.trans h) Bool.false_ne_true

/-- The continue flag is looked at in a read alone. -/
theorem execStep_continue {s : State} (c d : Level) (h : s.rxBusy ≠ true) : execStep c s = execStep d s := by
  cases hp : s.phase
  case rxSync | rxHeader | rxPayload => exact absurd (rxBusy_of_phase hp) h
  all_goals simp only [execStep, hp]

/-- Settles O30: the level is sampled in a read alone (`exec_lineIn`), and so is the flag. -/
theorem continueFlagIsIgnoredInASend : Obligations.ContinueFlagIsIgnoredInASend := by
  intro s c d u h
  have hr := not_rxBusy_of_txBusy h
  rw [exec_lineIn u rfl fun hc => hr hc.2]
  exact congrArg (onNext _) (execStep_continue c d hr)

/-! ## The units of each segment (R174 to R179) -/

theorem tsel_of_phase {s : State} {p : Phase} (h : s.phase = p) :
    s.tsel = ((p == .rxPayload && decide (s.bcnt.toNat < (metaSize s.rxm).toNat)) || p == .txPay) := h ▸ rfl

/-- Settles O31, by whether the element is the last. -/
theorem txPreDrivesThePreamble : Obligations.TxPreDrivesThePreamble := by
  intro s c u h hu
  refine ⟨tsel_of_phase h, ?_⟩
  by_cases hp : s.idx + 1 = s.plen
  · exact ⟨_, execStep_of_effect (.preambleEnd u h hu hp), rfl, rfl, fun _ => rfl, fun hne => absurd hp hne⟩
  · exact ⟨_, execStep_of_effect (.preambleElement u h hu hp), rfl, rfl, fun he => absurd he hp, fun _ => rfl⟩

/-- The three places of a bit in a segment of `n` octets, octet `k` being sent (R175): before the eighth bit,
at the eighth bit of an octet but the last, and at the last bit of all. -/
theorem bit_cases (b : BitVec 3) (k n : Nat) : b ≠ 7 ∨ (b = 7 ∧ k + 1 ≠ n) ∨ (b = 7 ∧ k + 1 = n) := by
  tauto

/-- Settles O32, by the place of the bit. -/
theorem txMetaDrivesTheMetadata : Obligations.TxMetaDrivesTheMetadata := by
  intro s c o h ho
  refine ⟨tsel_of_phase h, ?_⟩
  have hlt := record_index ho
  obtain hb | ⟨hb, hn⟩ | ⟨hb, hn⟩ := bit_cases s.bitcnt s.bcnt.toNat 6
  · exact ⟨_, execStep_of_effect (.metaBit o h ho hb), rfl, rfl, rfl, fun _ => ⟨rfl, rfl, h⟩,
      fun h7 => absurd h7 hb, fun h7 => absurd h7 hb, rfl⟩
  · exact ⟨_, execStep_of_effect (.metaOctet o h ho hb (by omega)), rfl, (accWith_of_eq o hb).symm, rfl,
      fun h7 => absurd hb h7, fun _ _ => ⟨rfl, rfl, h⟩, fun _ he => absurd he hn, rfl⟩
  · have hk : s.bcnt.toNat = 5 := by omega
    have hsum := sum_txMeta_last h hb hk
    exact ⟨_, execStep_of_effect (.metaEnd o h ho hb hk), rfl, (accWith_of_eq o hb).symm, rfl,
      fun h7 => absurd hb h7, fun _ hne => absurd hn hne,
      fun _ _ => ⟨rfl, rfl, rfl, hsum⟩, rfl⟩

/-- Settles O33, by the place of the bit. -/
theorem txMckDrivesTheMetadataChecksum : Obligations.TxMckDrivesTheMetadataChecksum := by
  intro s c o h ho
  refine ⟨tsel_of_phase h, ?_⟩
  have hlt := digest_index ho
  obtain hb | ⟨hb, hn⟩ | ⟨hb, hn⟩ := bit_cases s.bitcnt s.bcnt.toNat 4
  · exact ⟨_, execStep_of_effect (.metaSumBit o h ho hb), rfl, rfl, fun _ => ⟨rfl, rfl, h, rfl⟩,
      fun h7 => absurd h7 hb, fun h7 => absurd h7 hb, rfl⟩
  · exact ⟨_, execStep_of_effect (.metaSumOctet o h ho hb (by omega)), rfl, rfl,
      fun h7 => absurd hb h7, fun _ _ => ⟨rfl, rfl, h, rfl⟩, fun _ he => absurd he hn, rfl⟩
  · exact ⟨_, execStep_of_effect (.metaSumEnd o h ho hb (by omega)), rfl, rfl,
      fun h7 => absurd hb h7, fun _ hne => absurd hn hne,
      fun _ _ => ⟨rfl, rfl, rfl, fun h0 => if_pos h0, fun h0 => if_neg h0⟩, rfl⟩

/-- Settles O34, by the place of the bit. -/
theorem txPayDrivesThePayload : Obligations.TxPayDrivesThePayload := by
  intro s c h hlt hsize
  refine ⟨(tsel_of_phase h).trans (Bool.or_true _), ?_⟩
  have hm : s.bcnt.toNat < s.params.maxPayload := hlt.trans_le hsize
  have hcnt : (s.bcnt + 1).toNat = s.bcnt.toNat + 1 :=
    bcnt_succ_toNat (by have := (metaSize s.txm).isLt; omega)
  obtain hb | ⟨hb, hn⟩ | ⟨hb, hn⟩ := bit_cases s.bitcnt s.bcnt.toNat (metaSize s.txm).toNat
  · exact ⟨_, execStep_of_effect (.payBit h hm hb), rfl, rfl, rfl, fun _ => ⟨rfl, rfl, h⟩,
      fun h7 => absurd h7 hb, fun h7 => absurd h7 hb, rfl⟩
  · exact ⟨_, execStep_of_effect (.payOctet h hm hb (hcnt.trans_ne hn)), rfl, (accWith_of_eq _ hb).symm, rfl,
      fun h7 => absurd hb h7, fun _ _ => ⟨rfl, rfl, h⟩, fun _ he => absurd he hn, rfl⟩
  · exact ⟨_, execStep_of_effect (.payEnd h hm hb (hcnt.trans hn)), rfl, (accWith_of_eq _ hb).symm, rfl,
      fun h7 => absurd hb h7, fun _ hne => absurd hn hne, fun _ _ => ⟨rfl, rfl, rfl⟩, rfl⟩

/-- Settles O35, by the place of the bit. -/
theorem txPckDrivesThePayloadChecksum : Obligations.TxPckDrivesThePayloadChecksum := by
  intro s c o h ho
  refine ⟨tsel_of_phase h, ?_⟩
  have hlt := digest_index ho
  obtain hb | ⟨hb, hn⟩ | ⟨hb, hn⟩ := bit_cases s.bitcnt s.bcnt.toNat 4
  · exact ⟨_, execStep_of_effect (.paySumBit o h ho hb), rfl, rfl, fun _ => ⟨rfl, rfl, h⟩,
      fun h7 => absurd h7 hb, fun h7 => absurd h7 hb, (sum_txPck h).1, rfl⟩
  · exact ⟨_, execStep_of_effect (.paySumOctet o h ho hb (by omega)), rfl, rfl,
      fun h7 => absurd hb h7, fun _ _ => ⟨rfl, rfl, h⟩, fun _ he => absurd he hn, (sum_txPck h).1, rfl⟩
  · exact ⟨_, execStep_of_effect (.paySumEnd o h ho hb (by omega)), rfl, rfl,
      fun h7 => absurd hb h7, fun _ hne => absurd hn hne, fun _ _ => ⟨rfl, rfl, rfl⟩, (sum_txPck h).1, rfl⟩

end Sys2Proof.Machine
end

section
/-! What `STEP` alone moves: the line, the engine of a send or a read in progress, and the phase. -/

namespace Sys2Proof.Machine

open Sys2Proof.Claims

/-! ## The line and the engine (R171, 10_state.md R42, 70_reset_and_hazards.md R311) -/

/-- Only the rules of the segments drive the line. -/
theorem StepEffect.lineOut_kept_or_sending {c : Level} {s t : State} (h : StepEffect c s t) :
    t.lineOut = s.lineOut ∨ s.phase ∈ [.txPre, .txMeta, .txMck, .txPay, .txPck] := by
  cases h with
  | preambleElement _ h | preambleEnd _ h | metaBit _ h | metaOctet _ h | metaEnd _ h | metaSumBit _ h
  | metaSumOctet _ h | metaSumEnd _ h | payBit h | payOctet h | payEnd h | paySumBit _ h | paySumOctet _ h
  | paySumEnd _ h => exact .inr (by simp [h])
  | _ => exact .inl rfl

theorem not_sending_of_quiet {s : State} (h : s.rxBusy = true ∨ s.phase = .txEnd ∨ s.phase = .idle) :
    s.phase ∉ [.txPre, .txMeta, .txMck, .txPay, .txPck] := by
  cases hp : s.phase <;> simp [rxBusy_of_phase hp, hp] at h ⊢

theorem CommandEffect.lineOut_kept {i : Instr} {s t : State} (h : CommandEffect s i t) (hi : ∀ c, i ≠ .step c) :
    t.lineOut = s.lineOut := by
  cases h with
  | step c _ _ => exact absurd rfl (hi c)
  | _ => rfl

/-- In a send or a read a command that is no `STEP` is refused, or answers without the engine. -/
theorem CommandEffect.engine_kept {i : Instr} {s t : State} (h : CommandEffect s i t) (hi : ∀ c, i ≠ .step c)
    (hb : s.phase ≠ .idle) : t = { s with ptr := t.ptr, cmderr := t.cmderr, ecode := t.ecode, rsp := t.rsp } := by
  cases h with
  | ckclr h | ckadd _ h | plen _ h | pset _ _ h | mset _ _ h | txwr _ h | poll h | send h => exact absurd h hb
  | step c _ _ => exact absurd rfl (hi c)
  | _ => rfl

/-- Settles O29, from what each effect writes. -/
theorem onlyStepMovesTheEngine : Obligations.OnlyStepMovesTheEngine := by
  refine ⟨fun i s t hi h => ?_, fun c s t hq h => ?_⟩
  · have he := exec_next_effect h
    exact ⟨he.lineOut_kept hi, he.engine_kept hi⟩
  · exact (execStep_next_iff.1 h).lineOut_kept_or_sending.resolve_right (not_sending_of_quiet hq)

/-! ## The phases (R182, 43_frame_rx.md R215) -/

theorem StepEffect.phase_mem_successors {c : Level} {s t : State} (h : StepEffect c s t) :
    t.phase ∈ stepSuccessors s.phase := by
  cases h with
  | stopped h | shifted h => rcases h with h | h <;> simp [h, stepSuccessors]
  | metaSumEnd =>
    dsimp only
    split <;> simp [stepSuccessors, ‹s.phase = _›]
  | _ => simp [stepSuccessors, ‹s.phase = _›]

/-- TX_MCK is left by one rule, which looks at the size alone (R177); the other rules are of other phases or
stay. -/
theorem StepEffect.txMck_exit {c : Level} {s t : State} (h : StepEffect c s t) (hp : s.phase = .txMck) :
    (t.phase = .txPck → metaSize s.txm = 0) ∧ (t.phase = .txPay → metaSize s.txm ≠ 0) := by
  cases h with
  | metaSumEnd => by_cases h0 : metaSize s.txm = 0 <;> simp [h0]
  | metaSumBit | metaSumOctet => simp [hp]
  | _ => simp_all

theorem CommandEffect.phase_kept_or_starts {i : Instr} {s t : State} (h : CommandEffect s i t)
    (hi : ∀ c, i ≠ .step c) :
    t.phase = s.phase ∨ (i = .poll ∧ s.phase = .idle ∧ t.phase = .rxSync) ∨
      (i = .send ∧ s.phase = .idle ∧ t.phase = .txPre) := by
  cases h with
  | poll h => exact .inr (.inl ⟨rfl, h, rfl⟩)
  | send h => exact .inr (.inr ⟨rfl, h, rfl⟩)
  | step c _ _ => exact absurd rfl (hi c)
  | _ => exact .inl rfl

/-- Settles O49: a `STEP` moves along an edge of the engine, and another command keeps the phase or starts
from `IDLE`. -/
theorem phaseMovesAlongTheListedEdges : Obligations.PhaseMovesAlongTheListedEdges := by
  intro i s t h
  by_cases hi : ∃ c, i = .step c
  · obtain ⟨c, rfl⟩ := hi
    have he := execStep_next_iff.1 h
    have hmem := he.phase_mem_successors
    refine ⟨.inr (.inr (.inr ⟨⟨c, rfl⟩, hmem⟩)), fun hp _ => ?_, he.txMck_exit⟩
    rw [hp] at hmem
    exact List.mem_singleton.1 hmem
  · have hk := (exec_next_effect h).phase_kept_or_starts (not_exists.1 hi)
    refine ⟨hk.imp_right (·.imp_right .inl), fun _ hs => absurd hs hi, fun hp => ?_⟩
    obtain hk | ⟨-, hidle, -⟩ | ⟨-, hidle, -⟩ := hk
    · rw [hk, hp]
      exact ⟨nofun, nofun⟩
    · exact absurd (hp.symm.trans hidle) (by decide)
    · exact absurd (hp.symm.trans hidle) (by decide)

end Sys2Proof.Machine
end

section
/-! The whole send (42_frame_tx.md R172, R180, R181). -/

namespace Sys2Proof.Machine

/-- `LINE_OUT` keeps the last level driven (10_state.md R42). -/
theorem lineOut_of_driveUnits {cs us : List Level} {s t : State} (h : driveUnits cs s = some (us, t)) :
    t.lineOut = us.getLastD s.lineOut := by
  induction cs generalizing s us with
  | nil =>
    cases h
    rfl
  | cons c cs ih =>
    obtain ⟨a, -, ha⟩ := Option.bind_eq_some_iff.1 h
    obtain ⟨⟨vs, b⟩, hvs, heq⟩ := Option.map_eq_some_iff.1 ha
    cases heq
    rw [List.getLastD_cons]
    exact ih hvs

theorem checksumBits_getLast? (os : List Octet) : (checksumBits os).getLast? = some ((cksum os).getLsbD 0) := by
  simp [checksumBits, digest, octetBits]

/-- The last unit of a frame is bit 0 of the payload's checksum (R121, R172). -/
theorem frame_getLastD (preamble : List Level) (record : MetaRecord) (payload : List Octet) (l : Level) :
    (frame preamble record payload).getLastD l = (cksum payload).getLsbD 0 := by
  rw [frame, List.getLastD_eq_getLast?, List.getLast?_append, checksumBits_getLast?]
  rfl

/-- Settles O37: the units by `drives_frame`, the level that is left by the last of them. -/
theorem sendDrivesTheFrame : Obligations.SendDrivesTheFrame := by
  intro s cs c hI h h0 hm hcs
  have hpat : s.plen.toNat ≤ s.pat.length := hI.patLength ▸ hI.plen
  have hlen : cs.length = (frame s.preamble s.txm (s.cells .txbuf (metaSize s.txm).toNat)).length := by
    rw [hcs, frame_length, s.cells_length, State.preamble, List.length_take_of_le hpat, frameUnits]
  obtain ⟨l, v, hd⟩ := drives_frame { s with dir := true, rsp := 0 } hpat h0 hm cs s.lineOut 0 hlen
  have hl : l = (cksum (s.cells .txbuf (metaSize s.txm).toNat)).getLsbD 0 :=
    (lineOut_of_driveUnits hd).trans (frame_getLastD _ _ _ _)
  refine ⟨_, _, exec_send_of_idle h h0 hm, hd, rfl, (txEndReleasesTheLine _ c ?_).trans ?_⟩
  · rfl
  · rw [hl, ← h]
    rfl

end Sys2Proof.Machine
end

section
/-! The rules of a read one by one (43_frame_rx.md R200 to R211): each is completed by one effect of
`StepEffect`. -/

namespace Sys2Proof.Machine

/-! ## The start and the stop (R200, R202) -/

/-- Settles O38, by the checks of R282 and R283. -/
theorem pollStartsARead : Obligations.PollStartsARead :=
  ⟨by decide, fun _ => ⟨next_whenIdle_of_busy _, fun h h0 => next_checked_of_not _ h (not_not_intro h0),
    exec_poll_of_idle⟩⟩

/-- Settles O39. -/
theorem stopRequestFailsTheRead : Obligations.StopRequestFailsTheRead :=
  ⟨fun _ _ => rfl, fun _ =>
    ⟨fun h => execStep_of_effect (.stoppedSync h rfl), fun h => execStep_of_effect (.stopped h rfl)⟩⟩

/-! ## The search for the preamble (R203) -/

/-- Two lists begin alike exactly when their first elements agree one by one. -/
theorem take_eq_take_iff_getElem? {α : Type} {n : Nat} {xs ys : List α} :
    xs.take n = ys.take n ↔ ∀ j, j < n → xs[j]? = ys[j]? := by
  refine ⟨fun h j hj => ?_, fun h => List.ext_getElem? fun j => ?_⟩
  · rw [← List.getElem?_take_of_lt hj, h, List.getElem?_take_of_lt hj]
  · rw [List.getElem?_take, List.getElem?_take]
    split
    · exact h j ‹_›
    · rfl

/-- Settles O40, by whether the sample fills the block and whether the full block matches. -/
theorem syncStepComparesWholeBlocks : Obligations.SyncStepComparesWholeBlocks := by
  intro s h hi
  refine ⟨tsel_of_phase h, ?_⟩
  have hsample : (s.mbuf.set s.idx.toNat s.lineIn)[s.idx.toNat]? = some s.lineIn := List.getElem?_set_self hi
  have hother (j : Nat) (hj : j ≠ s.idx.toNat) : (s.mbuf.set s.idx.toNat s.lineIn)[j]? = s.mbuf[j]? :=
    List.getElem?_set_ne hj.symm
  by_cases hp : s.idx + 1 = s.plen
  · by_cases hm : (s.mbuf.set s.idx.toNat s.lineIn).take s.plen.toNat = s.pat.take s.plen.toNat
    · exact ⟨_, execStep_of_effect (.matched h rfl hi hp hm), hsample, hother, rfl, fun hne => absurd hp hne,
        fun _ _ => rfl, fun _ hne => absurd (take_eq_take_iff_getElem?.1 hm) hne⟩
    · exact ⟨_, execStep_of_effect (.mismatched h rfl hi hp hm), hsample, hother, rfl, fun hne => absurd hp hne,
        fun _ he => absurd (take_eq_take_iff_getElem?.2 he) hm, fun _ _ => rfl⟩
  · exact ⟨_, execStep_of_effect (.sampled h rfl hi hp), hsample, hother, rfl, fun _ => rfl,
      fun he => absurd he hp, fun he => absurd he hp⟩

/-! ## The octets of the header and of the payload (R204 to R208) -/

/-- Settles O41. -/
theorem sampleIsShiftedIntoTheOctet : Obligations.SampleIsShiftedIntoTheOctet :=
  fun s h hb => ⟨_, execStep_of_effect (.shifted h rfl hb), shiftIn_toNat s.shreg s.lineIn, rfl, rfl, rfl⟩

/-- The octet that a sample completes, from its value (R204). -/
theorem octetIn_of_toNat {s : State} {o : Octet} (h : o.toNat = (2 * s.shreg.toNat + s.lineIn.toNat) % 256) :
    s.octetIn = o :=
  BitVec.eq_of_toNat_eq ((shiftIn_toNat s.shreg s.lineIn).trans h.symm)

/-- Settles O42, by the count of the octet and the two tests of the last. -/
theorem headerOctetIsCheckedWhenComplete : Obligations.HeaderOctetIsCheckedWhenComplete := by
  intro s o h hb ho
  obtain rfl := octetIn_of_toNat ho
  refine ⟨tsel_of_phase h, fun hn => ?_, fun hl hn => ?_, fun hn hk => ?_, fun hn hk hm => ?_,
    fun hn hk hm => ?_, fun hs hl => (sum_rxHeaderSum h hl).1 hs⟩
  · exact execStep_of_effect (.headerOctet h rfl hb hn)
  · exact execStep_of_effect (.headerSumOctet h rfl hb hl hn)
  · exact execStep_of_effect (.headerCorrupt h rfl hb hn hk)
  · exact execStep_of_effect (.headerOversize h rfl hb hn hk hm)
  · exact execStep_of_effect (.headerVerified h rfl hb hn hk hm)

/-- An octet staged leaves every cell but its own (20_memory.md R62, R80). -/
theorem cell_of_stage_write {s t : State} {k i : Nat} {o : Octet} {b : Buffer} (hr : t.resets = s.resets)
    (htxbuf : t.txbuf = s.txbuf) (hstage : t.stage = Memory.write s.stage k o) (hpub : t.pub = s.pub)
    (h : ¬(b = .stage ∧ i = k)) : t.cell b i = s.cell b i := by
  refine State.cell_congr hr ?_
  cases b with
  | txbuf => exact congrArg (Memory.get? · i) htxbuf
  | stage => exact (congrArg (Memory.get? · i) hstage).trans (Memory.get?_write_of_ne s.stage o fun hi => h ⟨rfl, hi⟩)
  | pub => exact congrArg (Memory.get? · i) hpub

theorem tsel_rxPayload {s : State} (h : s.phase = .rxPayload) :
    s.tsel = decide (s.bcnt.toNat < (metaSize s.rxm).toNat) :=
  (tsel_of_phase h).trans (Bool.or_false _)

/-- Settles O43, by whether the octet is one of the payload or of its checksum. -/
theorem payloadOctetIsStaged : Obligations.PayloadOctetIsStaged := by
  intro s o h hb hsize ho
  obtain rfl := octetIn_of_toNat ho
  refine ⟨fun hn => ⟨?_, ?_⟩, fun hl hn => ⟨?_, ?_⟩⟩
  · exact (tsel_rxPayload h).trans (decide_eq_true hn)
  · exact ⟨_, execStep_of_effect (.payloadOctet h rfl hb hn (hn.trans_le hsize)),
      State.cell_of_get? (Memory.get?_write_self _ _ _), fun _ _ => cell_of_stage_write rfl rfl rfl rfl, rfl⟩
  · exact (tsel_rxPayload h).trans (decide_eq_false hl.not_gt)
  · exact execStep_of_effect (.payloadSumOctet h rfl hb hl hn)

/-! ## The end of a read (R209 to R211, R214) -/

/-- Settles O44, by the test of the payload's checksum. -/
theorem verifiedPayloadIsPublished : Obligations.VerifiedPayloadIsPublished := by
  intro s o h hb _ hn ho
  obtain rfl := octetIn_of_toNat ho
  have hl : s.rxSize ≤ s.bcnt.toNat := (Nat.le_add_right _ 3).trans hn.ge
  refine ⟨(sum_rxPayloadSum h hl).1, fun hk => ?_, fun hk => ?_⟩
  · exact execStep_of_effect (.payloadCorrupt h rfl hb hn hk)
  · exact ⟨_, execStep_of_effect (.payloadVerified h rfl hb hn hk),
      fun _ hi => State.cell_of_get? (Memory.get?_adopt_of_lt _ _ hi),
      fun _ hi => State.cell_congr rfl (Memory.get?_adopt_of_le _ _ hi), fun _ => ⟨rfl, rfl⟩, rfl⟩

/-- Settles O50: six effects of `STEP` end a read; of the others some go on to another phase, some keep the
phase, and some are no effects of a read. -/
theorem readEndsInOneOfThreeWays : Obligations.ReadEndsInOneOfThreeWays := by
  intro s t c hr hok hfail h hi
  have hbusy : s.phase ≠ .idle := fun hp => absurd ((rxBusy_of_phase hp).symm.trans hr) (by decide)
  cases execStep_next_iff.1 h with
  | payloadVerified hp hc => exact .inl ⟨rfl, hfail, rfl, hc, hp⟩
  | headerCorrupt hp hc | headerOversize hp hc | payloadCorrupt hp hc =>
    exact .inr (.inl ⟨hok, rfl, rfl, hc, by simp [hp]⟩)
  | stoppedSync hp hc => exact .inr (.inr ⟨hok, rfl, hc, (if_pos hp).symm⟩)
  | stopped hp hc =>
    have hne : s.phase ≠ .rxSync := by rcases hp with hp | hp <;> simp [hp]
    exact .inr (.inr ⟨hok, rfl, hc, (if_neg hne).symm⟩)
  | matched | headerVerified => cases hi
  | refused | sampled | mismatched | shifted | headerOctet | headerSumOctet | payloadOctet | payloadSumOctet =>
    exact absurd hi hbusy
  | _ => exact absurd ((rxBusy_of_phase ‹s.phase = _›).symm.trans hr) (by decide)

end Sys2Proof.Machine
end

section
/-! The search for the preamble, block by block (43_frame_rx.md R203, R213): the detector compares whole
blocks of `PLEN` units alone, and a frame that begins at the end of one is received (R214, R215). -/

namespace Sys2Proof.Machine

open Sys2Proof.Claims

/-! ## Samples cut into blocks (R213) -/

theorem take_succ_blocks (n : Nat) (us : List Level) (k : Nat) :
    us.take ((k + 1) * n) = us.take (k * n) ++ block n us k := by
  rw [Nat.succ_mul, List.take_add, block]

theorem block_length {n k : Nat} {us : List Level} (hl : (k + 1) * n ≤ us.length) : (block n us k).length = n := by
  rw [Nat.succ_mul] at hl
  refine List.length_take_of_le ?_
  rw [List.length_drop]
  omega

/-! ## One block (R203) -/

theorem StepEffect.mismatched_of_mbuf {s : State} {i : BitVec 8} {m : List Level} (h : s.phase = .rxSync)
    (hi : s.idx.toNat < s.mbuf.length) (hp : s.idx + 1 = s.plen) (hset : s.mbuf.set s.idx.toNat s.lineIn = m)
    (hm : m.take s.plen.toNat ≠ s.preamble) (h0 : i = 0) :
    StepEffect true s { s with mbuf := m, idx := i, rsp := 0 } := by
  subst hset h0
  exact .mismatched h rfl hi hp hm

theorem matchBufferAt_mbuf_length {s : State} {us : List Level} {k : Nat} (hk : k ≤ us.length)
    (hb : k ≤ s.mbuf.length) : (matchBufferAt s us k).mbuf.length = s.mbuf.length := by
  rw [matchBufferAt, List.length_append, List.length_take_of_le hk, List.length_drop]
  omega

/-- A full block in the match buffer. -/
theorem matchBufferAt_mbuf_take {s : State} {us : List Level} {k : Nat} (hk : us.length = k) :
    (matchBufferAt s us k).mbuf.take k = us := by
  subst hk
  rw [matchBufferAt, List.take_length, List.take_left]

/-- Where the search stands `k` units into the block `us`. -/
def blockAt (s : State) (us : List Level) (k : Nat) : State :=
  { matchBufferAt s us k with idx := BitVec.ofNat 8 k }

/-- A block starts with the match index at 0. -/
theorem blockAt_zero {s : State} (us : List Level) (h : s.idx = 0) : blockAt s us 0 = s := by
  change { s with idx := 0 } = s
  rw [← h]

section Search

variable {s : State} {us : List Level} {k : Nat} {u : Level} (hb : s.plen.toNat ≤ s.mbuf.length)
include hb

theorem blockAt_idx_lt (hk : k < s.plen.toNat) (hu : us[k]? = some u) :
    (blockAt s us k).idx.toNat < (blockAt s us k).mbuf.length := by
  have hkb : k < s.mbuf.length := hk.trans_le hb
  have hidx : (blockAt s us k).idx.toNat = k := Nat.mod_eq_of_lt (by omega)
  rw [hidx]
  exact hkb.trans_eq (matchBufferAt_mbuf_length (lt_length_of_getElem? hu).le hkb.le).symm

/-- The sample stored at the match index. -/
theorem blockAt_mbuf_set (hk : k < s.plen.toNat) (hu : us[k]? = some u) :
    (blockAt s us k).mbuf.set (blockAt s us k).idx.toNat u = (matchBufferAt s us (k + 1)).mbuf := by
  have hidx : (blockAt s us k).idx.toNat = k := Nat.mod_eq_of_lt (by omega)
  rw [hidx]
  exact matchBufferAt_mbuf_succ hu (hk.trans_le hb)

variable (h : s.phase = .rxSync)
include h

/-- A unit that does not fill the block. -/
theorem samples_blockUnit (hk : k + 1 < s.plen.toNat) (hu : us[k]? = some u) :
    Samples (blockAt s us k) [u] (blockAt s us (k + 1)) := by
  have hlt : k < s.plen.toNat := by omega
  have hp : BitVec.ofNat 8 k + 1 ≠ s.plen := by bv_omega
  refine .unit fun r v => ?_
  rw [blockAt.eq_def s us (k + 1), BitVec.ofNat_add]
  exact .sampled_of_mbuf h (blockAt_idx_lt hb hlt hu) hp (blockAt_mbuf_set hb hlt hu)

variable (hi : s.idx = 0)
include hi

/-- The unit that fills the block `us` ends it in the comparison with the preamble. -/
theorem samples_blockEnd (hk : k + 1 = s.plen.toNat) (hl : us.length = k + 1) (hu : us[k]? = some u) :
    Samples (blockAt s us k) [u] (if us = s.preamble then (matchBufferAt s us (k + 1)).start .rxHeader
      else matchBufferAt s us (k + 1)) := by
  have hlt : k < s.plen.toNat := by omega
  have hp : BitVec.ofNat 8 k + 1 = s.plen := by bv_omega
  have hblock : (matchBufferAt s us (k + 1)).mbuf.take s.plen.toNat = us := by
    rw [← hk, matchBufferAt_mbuf_take hl]
  refine .unit fun r v => ?_
  split
  · have hmatched := StepEffect.matched_of_mbuf (s := { blockAt s us k with shreg := r, lineIn := u, rsp := v }) h
      (blockAt_idx_lt hb hlt hu) hp (blockAt_mbuf_set hb hlt hu) (hblock.trans ‹_›)
    exact hmatched
  · exact .mismatched_of_mbuf h (blockAt_idx_lt hb hlt hu) hp (blockAt_mbuf_set hb hlt hu) (hblock.trans_ne ‹_›) hi

/-- The first `k` units of a block. -/
theorem samples_partialBlock (hk : k < s.plen.toNat) (hl : k ≤ us.length) :
    Samples s (us.take k) (blockAt s us k) := by
  induction k with
  | zero =>
    rw [blockAt_zero us hi]
    exact .nil s
  | succ k ih =>
    rw [← List.take_append_getElem hl]
    exact (ih (by omega) (by omega)).append (samples_blockUnit hb h hk (List.getElem?_eq_getElem hl))

variable (h0 : s.plen ≠ 0)
include h0

/-- A full block, from its first unit. -/
theorem samples_block (hl : us.length = s.plen.toNat) :
    Samples s us (if us = s.preamble then (matchBufferAt s us s.plen.toNat).start .rxHeader
      else matchBufferAt s us s.plen.toNat) := by
  obtain ⟨k, hk⟩ := Nat.exists_eq_add_one.2 (BitVec.toNat_pos_of_ne_zero h0)
  have hlk : us.length = k + 1 := hl.trans hk
  have hlt : k < us.length := by omega
  have run := (samples_partialBlock hb h hi (by omega) hlt.le).append
    (samples_blockEnd hb h hi hk.symm hlk (List.getElem?_eq_getElem hlt))
  rwa [List.take_append_getElem hlt, List.take_of_length_le hlk.le, ← hk] at run

theorem samples_block_matched (hl : us.length = s.plen.toNat) (hm : us = s.preamble) :
    Samples s us ((matchBufferAt s us s.plen.toNat).start .rxHeader) := by
  have run := samples_block hb h hi h0 hl
  rwa [if_pos hm] at run

theorem samples_block_mismatched (hl : us.length = s.plen.toNat) (hm : us ≠ s.preamble) :
    Samples s us (matchBufferAt s us s.plen.toNat) := by
  have run := samples_block hb h hi h0 hl
  rwa [if_neg hm] at run

/-! ## Blocks in a row (R213) -/

/-- Blocks that do not match change the match buffer alone. -/
theorem samples_blocks (hl : k * s.plen.toNat ≤ us.length)
    (hne : ∀ j, j < k → block s.plen.toNat us j ≠ s.preamble) :
    ∃ m, m.length = s.mbuf.length ∧ Samples s (us.take (k * s.plen.toNat)) { s with mbuf := m } := by
  induction k with
  | zero =>
    rw [Nat.zero_mul]
    exact ⟨s.mbuf, rfl, .nil s⟩
  | succ k ih =>
    obtain ⟨m, hm, run⟩ := ih ((Nat.mul_le_mul_right _ k.le_succ).trans hl) fun j hj => hne j (hj.trans k.lt_succ_self)
    have hbm : s.plen.toNat ≤ m.length := hb.trans_eq hm.symm
    have hlen := block_length hl
    have last := samples_block_mismatched (s := { s with mbuf := m }) hbm h hi h0 hlen (hne k k.lt_succ_self)
    rw [take_succ_blocks]
    exact ⟨_, (matchBufferAt_mbuf_length hlen.ge hbm).trans hm, run.append last⟩

theorem samples_mismatchedBlocks (hl : us.length = k * s.plen.toNat)
    (hne : ∀ j, j < k → block s.plen.toNat us j ≠ s.preamble) :
    ∃ m, m.length = s.mbuf.length ∧ Samples s us { s with mbuf := m } := by
  have run := samples_blocks hb h hi h0 hl.ge hne
  rwa [List.take_of_length_le hl.le] at run

end Search

/-- A frame after blocks that do not match is published (R215). -/
theorem samples_frameAfterBlocks (s : State) {noise : List Level} {k : Nat} {record : MetaRecord}
    {payload : List Octet} (hp : s.plen.toNat ≤ s.pat.length) (hb : s.plen.toNat ≤ s.mbuf.length) (h0 : s.plen ≠ 0)
    (hnoise : noise.length = k * s.plen.toNat) (hne : ∀ j, j < k → block s.plen.toNat noise j ≠ s.preamble)
    (hl : payload.length = (metaSize record).toNat) (hm : (metaSize record).toNat ≤ s.params.maxPayload) :
    ∃ m, Samples (s.start .rxSync) (noise ++ frame s.preamble record payload)
      (frameSampled { s with mbuf := m } record payload).publish := by
  obtain ⟨m, hlen, search⟩ := samples_mismatchedBlocks (s := s.start .rxSync) hb rfl rfl h0 hnoise hne
  exact ⟨m, search.append (samples_frame { s with mbuf := m } hp (hb.trans_eq hlen.symm) h0 hl hm)⟩

/-! ## The statements settled -/

theorem Samples.run {s t : State} {us : List Level} (h : Samples s us t) :
    ∃ r u v, sampleUnits us s = some { t with shreg := r, lineIn := u, rsp := v } :=
  h s.shreg s.lineIn s.rsp

/-- Settles O45: the whole blocks of the samples do not match, and the rest of them is a block not yet full,
or the block that matches. -/
theorem detectorIsBlockAligned : Obligations.DetectorIsBlockAligned := by
  intro s us hI h hi
  have hb : s.plen.toNat ≤ s.mbuf.length := hI.mbufLength ▸ hI.plen
  have h0 : s.plen ≠ 0 := hI.configured (busy_of_phase h)
  refine ⟨fun hne => ?_, fun k hl hne hk => ?_⟩
  · have hmod : us.length % s.plen.toNat < s.plen.toNat := Nat.mod_lt _ (BitVec.toNat_pos_of_ne_zero h0)
    have hdiv : us.length / s.plen.toNat * s.plen.toNat ≤ us.length := Nat.div_mul_le_self _ _
    have hrest : (us.drop (us.length / s.plen.toNat * s.plen.toNat)).length = us.length % s.plen.toNat := by
      rw [List.length_drop, Nat.mod_eq_sub_div_mul]
    obtain ⟨m, hm, run⟩ := samples_blocks hb h hi h0 hdiv fun j hj =>
      hne j ((Nat.mul_le_mul_right _ hj).trans hdiv)
    have last := samples_partialBlock (s := { s with mbuf := m }) (hb.trans_eq hm.symm) h hi hmod hrest.ge
    rw [List.take_of_length_le hrest.le] at last
    obtain ⟨r, u, v, hrun⟩ := (run.append last).run
    rw [List.take_append_drop] at hrun
    exact ⟨_, hrun, h, Nat.mod_eq_of_lt (by omega)⟩
  · obtain ⟨m, hm, run⟩ := samples_blocks hb h hi h0 ((Nat.mul_le_mul_right _ k.le_succ).trans hl.ge) hne
    have last := samples_block_matched (s := { s with mbuf := m }) (hb.trans_eq hm.symm) h hi h0
      (block_length hl.ge) hk
    obtain ⟨r, u, v, hrun⟩ := (run.append last).run
    rw [← take_succ_blocks, List.take_of_length_le hl.le] at hrun
    exact ⟨_, hrun, rfl, rfl, rfl, rfl, rfl⟩

/-- Publication leaves the cells from `n` on (R211). -/
theorem publish_cell_pub_of_le {s : State} {i : Nat} (h : s.rxSize ≤ i) : s.publish.cell .pub i = s.cell .pub i :=
  State.cell_congr rfl (Memory.get?_adopt_of_le s.pub (s.cell .stage) h)

/-- Settles O46, from the frame sampled after the blocks that do not match (`samples_frameAfterBlocks`). -/
theorem receivedFrameIsPublished : Obligations.ReceivedFrameIsPublished := by
  intro s noise k record payload hI h h0 hnoise hne hl hm
  have hp : s.plen.toNat ≤ s.pat.length := hI.patLength ▸ hI.plen
  have hb : s.plen.toNat ≤ s.mbuf.length := hI.mbufLength ▸ hI.plen
  have hsize := (metaSize record).isLt
  obtain ⟨m, read⟩ := samples_frameAfterBlocks { s.clearOutcome with dir := false, rsp := 0 } hp hb h0 hnoise hne hl
    (hl.ge.trans hm)
  obtain ⟨r, u, v, hrun⟩ := read.run
  have hpub := published_cells_pub (s := { s.clearOutcome with dir := false, rsp := 0, mbuf := m }) hl
  refine ⟨?_, _, _, exec_poll_of_idle h h0, hrun, rfl, rfl, rfl, rfl, rfl, rfl,
    (State.cells_congr fun _ _ => State.cell_congr rfl rfl).trans hpub,
    fun i hi => publish_cell_pub_of_le (hl.ge.trans hi), congrArg cksum payload.take_length, bcnt_ofNat_toNat (by omega),
    rfl, rfl, rfl, rfl, rfl, rfl, rfl, rfl, rfl⟩
  rw [List.length_append, hnoise, frame_length, frameUnits, State.preamble, List.length_take_of_le hp,
    Nat.succ_mul k, Nat.add_assoc]

end Sys2Proof.Machine
end

section
/-! The system commands (44_system.md R240 to R242), and what the status registers and the output pins show
of the state (10_state.md R40, R43 to R46, R50). -/

namespace Sys2Proof.Machine

open Sys2Proof.Claims

/-! ## The busy functions and the timing selector (R40, R43) -/

theorem busy_iff (s : State) : s.busy = true ↔ s.phase ≠ .idle := by
  simp [State.busy]

theorem rxBusy_iff (s : State) :
    s.rxBusy = true ↔ s.phase = .rxSync ∨ s.phase = .rxHeader ∨ s.phase = .rxPayload := by
  simp [State.rxBusy, or_assoc]

theorem txBusy_iff (s : State) :
    s.txBusy = true ↔ s.phase = .txPre ∨ s.phase = .txMeta ∨ s.phase = .txMck ∨ s.phase = .txPay ∨
      s.phase = .txPck ∨ s.phase = .txEnd := by
  cases hp : s.phase <;> simp [State.txBusy, hp, Phase.code]

theorem tsel_iff (s : State) :
    s.tsel = true ↔ (s.phase = .rxPayload ∧ s.bcnt.toNat < (metaSize s.rxm).toNat) ∨ s.phase = .txPay := by
  simp [State.tsel]

theorem pins_show (s : State) : pinsShow s :=
  ⟨rfl, rfl, rfl, rfl, busy_iff s, tsel_iff s⟩

/-! ## The status registers (R44 to R46) -/

/-- The bits of `STAT` (R45). -/
theorem stat_getLsbD (s : State) (i : Nat) :
    s.stat.getLsbD i =
      ([s.rxBusy, s.txBusy, s.ok, s.fail, s.dir, s.tsel, s.cmderr, false][i]?.getD false) := by
  by_cases h : i < 8
  · simp only [State.stat, BitVec.getLsbD_append]
    interval_cases i <;> simp
  · rw [BitVec.getLsbD_of_ge _ _ (by omega), List.getElem?_eq_none (by simpa using h)]
    rfl

theorem registerShows_stat (s : State) : registerShows s s.stat 0 := by
  simp only [registerShows, stat_getLsbD]
  exact ⟨rxBusy_iff s, txBusy_iff s, rfl, rfl, rfl, tsel_iff s, rfl, rfl⟩

/-- The value of `CAUSE` (R46). -/
theorem cause_toNat (s : State) : s.cause.toNat = s.ecode.code.toNat * 16 + s.reason.code.toNat := by
  refine (toNat_append_eq (0#1 ++ s.ecode.code ++ 0#2) s.reason.code).trans ?_
  rw [toNat_append_eq (0#1 ++ s.ecode.code) 0#2, toNat_append_eq 0#1 s.ecode.code, BitVec.toNat_ofNat,
    BitVec.toNat_ofNat]
  omega

/-- `CAUSE[6:4]` is `ECODE` (R46). -/
theorem cause_extractLsb' (s : State) : s.cause.extractLsb' 4 3 = s.ecode.code := by
  apply BitVec.eq_of_toNat_eq
  rw [BitVec.extractLsb'_toNat, cause_toNat, Nat.shiftRight_eq_div_pow]
  omega

theorem registerShows_cause (s : State) : registerShows s s.cause 1 := by
  simp only [registerShows, cause_toNat]
  refine ⟨?_, by omega, ?_⟩
  · have hmod : (s.ecode.code.toNat * 16 + s.reason.code.toNat) % 4 = s.reason.code.toNat := by omega
    rw [hmod]
    cases s.reason <;> decide
  · have hdiv : (s.ecode.code.toNat * 16 + s.reason.code.toNat) / 16 = s.ecode.code.toNat := by omega
    rw [hdiv]
    cases s.ecode <;> decide

theorem registerShows_phase (s : State) : registerShows s (0#4 ++ s.phase.code) 2 := by
  simp only [registerShows]
  cases s.phase <;> decide

/-- Each selector up to 8 is a register that shows its fields. -/
theorem statusRegister_shows (s : State) {r : Nat} (h : r ≤ 8) :
    ∃ v, s.statusRegister r = some v ∧ registerShows s v r := by
  interval_cases r
  · exact ⟨_, rfl, registerShows_stat s⟩
  · exact ⟨_, rfl, registerShows_cause s⟩
  · exact ⟨_, rfl, registerShows_phase s⟩
  · exact ⟨s.plen, rfl, rfl⟩
  · exact ⟨_, rfl, lowOctet_toNat s.publen⟩
  · exact ⟨_, rfl, highOctet_toNat s.publen⟩
  · exact ⟨_, rfl, lowOctet_toNat s.ptr⟩
  · exact ⟨_, rfl, highOctet_toNat s.ptr⟩
  · exact ⟨s.idx, rfl, rfl⟩

/-- The selectors from 9 on are no registers (R44). -/
theorem statusRegister_of_ge (s : State) {r : Nat} (h : 9 ≤ r) : s.statusRegister r = none := by
  obtain ⟨k, rfl⟩ := Nat.exists_eq_add_of_le' h
  rfl

/-! ## The commands -/

theorem exec_rdsr_of_some {s : State} {r : Nat} {v : Octet} (h : s.statusRegister r = some v) :
    exec (.rdsr r) s = .next { s with rsp := v } := by
  simp only [exec, execRdsr, h]
  rfl

theorem exec_rdsr_of_none {s : State} {r : Nat} (h : s.statusRegister r = none) :
    exec (.rdsr r) s = .next (s.refuse .range) := by
  simp only [exec, execRdsr, h]

/-- Settles O11, by whether `r` selects a register. -/
theorem rdsrReadsTheStatusRegisters : Obligations.RdsrReadsTheStatusRegisters := by
  refine ⟨by decide, by decide, fun s r => ⟨fun hr => ?_, fun h => ?_, fun h => ?_, pins_show s⟩⟩
  · rw [encode, wordOf_zero_eq_or, BitVec.setWidth_ofNat_of_le_of_lt (by decide) hr]
    rfl
  · obtain ⟨v, hv, hshows⟩ := statusRegister_shows s h
    exact ⟨v, exec_rdsr_of_some hv, hshows⟩
  · exact exec_rdsr_of_none (statusRegister_of_ge s h)

theorem exec_nop (s : State) : exec .nop s = .next { s with rsp := 0 } := rfl

theorem exec_errclr (s : State) : exec .errclr s = .next { s with cmderr := false, ecode := .none, rsp := 0 } := rfl

/-- Settles O9: the answer 0 is all that `NOP` writes. -/
theorem nopChangesNoState : Obligations.NopChangesNoState :=
  ⟨by decide, exec_nop⟩

/-- Settles O10: with `ECODE` cleared, its field of `CAUSE` reads 0. -/
theorem errclrAcknowledgesARefusal : Obligations.ErrclrAcknowledgesARefusal :=
  ⟨by decide, fun s => ⟨_, exec_errclr s, rfl, rfl, rfl, cause_extractLsb' _, rfl⟩⟩

end Sys2Proof.Machine
end

section
/-! The illegal words (30_encoding.md R95, R96): each format rejects the fields in which a bit that it fixes
at 0 is set, and those words are the ones the list of R96 has. -/

namespace Sys2Proof

open Sys2Proof.Claims

/-! ## What a format rejects (R93), as numbers -/

theorem exists_error_ite {p : Prop} [Decidable p] {i : Instr} {r : DecodeError} :
    (∃ e, (if p then .ok i else .error r : Except DecodeError Instr) = .error e) ↔ ¬p := by
  by_cases h : p <;> simp [h]

section
variable {a : BitVec 4} {d : Octet}

theorem formatZ_error_iff {i : Instr} : (∃ e, formatZ a d i = .error e) ↔ a.toNat ≠ 0 ∨ d.toNat ≠ 0 :=
  exists_error_ite.trans (by bv_omega)

theorem formatD_error_iff {mk : Octet → Instr} : (∃ e, formatD a d mk = .error e) ↔ a.toNat ≠ 0 :=
  exists_error_ite.trans (by bv_omega)

theorem formatJ_error_iff {mk : Nat → Instr} : (∃ e, formatJ a d mk = .error e) ↔ d.toNat ≠ 0 :=
  exists_error_ite.trans (by bv_omega)

theorem formatK_error_iff {mk : Fin 4 → Instr} :
    (∃ e, formatK a d mk = .error e) ↔ a.toNat ≠ 0 ∨ 3 < d.toNat := by
  have hd : (d.extractLsb' 2 6).toNat = d.toNat / 4 % 64 := by
    rw [BitVec.extractLsb'_toNat, Nat.shiftRight_eq_div_pow]
  exact exists_error_ite.trans (by bv_omega)

theorem formatS_error_iff {mk : Level → Octet → Instr} : (∃ e, formatS a d mk = .error e) ↔ 1 < a.toNat := by
  have ha : (a.extractLsb' 1 3).toNat = a.toNat / 2 % 8 := by
    rw [BitVec.extractLsb'_toNat, Nat.shiftRight_eq_div_pow]
  exact exists_error_ite.trans (by bv_omega)

theorem formatC_error_iff {mk : Level → Instr} :
    (∃ e, formatC a d mk = .error e) ↔ a.toNat ≠ 0 ∨ 1 < d.toNat := by
  have hd : (d.extractLsb' 1 7).toNat = d.toNat / 2 % 128 := by
    rw [BitVec.extractLsb'_toNat, Nat.shiftRight_eq_div_pow]
  exact exists_error_ite.trans (by bv_omega)

end

/-! ## The list of R96 -/

theorem wordOf_inj {op op' a a' : BitVec 4} {d d' : Octet} :
    wordOf op a d = wordOf op' a' d' ↔ op = op' ∧ a = a' ∧ d = d' := by
  refine ⟨fun h => ⟨?_, ?_, ?_⟩, by rintro ⟨rfl, rfl, rfl⟩; rfl⟩
  · simpa using congrArg fieldOp h
  · simpa using congrArg fieldA h
  · simpa using congrArg fieldD h

section
variable (op a : BitVec 4) (d : Octet)

theorem wordOf_toNat_op : (wordOf op a d).toNat / 4096 = op.toNat := by
  rw [← fieldOp_toNat, fieldOp_wordOf]

theorem wordOf_toNat_a : (wordOf op a d).toNat / 256 % 16 = a.toNat := by
  rw [← fieldA_toNat, fieldA_wordOf]

theorem wordOf_toNat_d : (wordOf op a d).toNat % 256 = d.toNat := by
  rw [← fieldD_toNat, fieldD_wordOf]

/-- Bits 11:0 are the fields `a` and `d`. -/
theorem wordOf_operands_eq_zero : (wordOf op a d).toNat % 4096 = 0 ↔ a.toNat = 0 ∧ d.toNat = 0 := by
  rw [wordOf_toNat]
  omega

/-- A word with `op = 0` is `NOP`, `ERRCLR` or no command. -/
theorem decodeFields_zero_error_iff :
    (∃ e, decodeFields 0 a d = .error e) ↔ wordOf 0 a d ≠ 0x0000 ∧ wordOf 0 a d ≠ 0x0100 := by
  rw [show (0x0000 : CmdWord) = wordOf 0 0 0 from rfl, show (0x0100 : CmdWord) = wordOf 0 1 0 from rfl, ne_eq,
    ne_eq, wordOf_inj, wordOf_inj]
  simp only [decodeFields]
  split_ifs with hnop herr
  · simp [hnop]
  · simp [herr]
  · exact iff_of_true ⟨_, rfl⟩ ⟨fun h => hnop h.2, fun h => herr h.2⟩

/-- Case `h_n` below is the row, or the two rows, of `op = n - 1`; the last is `op = 15`. -/
theorem decodeFields_error_iff :
    (∃ e, decodeFields op a d = .error e) ↔ listedAsIllegal (wordOf op a d) := by
  simp only [listedAsIllegal, wordOf_toNat_op, wordOf_toNat_a, wordOf_toNat_d, ne_eq, wordOf_operands_eq_zero]
  unfold decodeFields
  split <;> rename_i hop
  case h_1 =>
    obtain rfl : op = 0 := BitVec.eq_of_toNat_eq hop
    exact (decodeFields_zero_error_iff a d).trans (by simp)
  case h_2 | h_11 | h_13 | h_14 => simp [hop, formatZ_error_iff, imp_iff_not_or]
  case h_3 | h_5 | h_10 => simp [hop, formatD_error_iff]
  case h_4 => simp [hop, formatK_error_iff]
  case h_6 | h_9 => simp [hop, formatS_error_iff]
  case h_7 => simp [hop, formatJD]
  case h_8 | h_12 => simp [hop, formatJ_error_iff]
  case h_15 => simp [hop, formatC_error_iff]
  case h_16 =>
    have hlt : op.toNat < 16 := op.isLt
    have h15 : op.toNat = 15 := by lia
    simp [h15]

end

/-- The illegal words are those that the list of R96 has. -/
theorem decode_error_iff (w : CmdWord) : (∃ e, decode w = .error e) ↔ listedAsIllegal w := by
  rw [← wordOf_fields w, decode_wordOf]
  exact decodeFields_error_iff _ _ _

end Sys2Proof
end

section
/-! The refusals (60_exceptions.md R280 to R284): what a refusal leaves, and which commands are refused. -/

namespace Sys2Proof.Machine

open Sys2Proof.Claims

/-! ## What a refusal leaves (R280, R281) -/

theorem refuse_of_cmderr {s : State} (c : ErrorCode) (h : s.cmderr = true) : s.refuse c = { s with rsp := 0 } := by
  simp [State.refuse, h]

theorem refuse_of_not_cmderr {s : State} (c : ErrorCode) (h : s.cmderr = false) :
    s.refuse c = { s with ecode := c, cmderr := true, rsp := 0 } := by
  simp [State.refuse, h]

/-- Settles O25, by whether a cause is recorded already. -/
theorem refusalKeepsTheFirstCause : Obligations.RefusalKeepsTheFirstCause :=
  fun _ c => ⟨refuse_of_not_cmderr c, refuse_of_cmderr c⟩

/-- Settles O5: a listed word does not decode (`decode_error_iff`), and a step refuses it. -/
theorem illegalWordsAreRefusedInEveryState : Obligations.IllegalWordsAreRefusedInEveryState := by
  refine fun w => ⟨decode_error_iff w, fun s hw => ?_⟩
  obtain ⟨e, he⟩ := (decode_error_iff w).2 hw
  exact step_of_illegal_word (takeEvent_present s w) he

/-! ## Which commands are refused (R282, R283) -/

theorem exec_of_wrongPhase {i : Instr} {s : State} (h : wrongPhase i s) : exec i s = .next (s.refuse .state) := by
  obtain ⟨hi, hp⟩ | ⟨⟨c, rfl⟩, hp⟩ := h
  · cases i with
    | ckclr | ckadd | plen | pset | mset | txwr | poll | send => exact next_whenIdle_of_busy _ hp
    | _ => cases hi
  · exact execStep_of_effect (.refused hp)

theorem idle_of_not_wrongPhase {i : Instr} {s : State} (h : ¬wrongPhase i s) (hi : idleOnly i = true) :
    s.phase = .idle :=
  not_not.1 fun hp => h (.inl ⟨hi, hp⟩)

theorem busy_of_not_wrongPhase {c : Level} {s : State} (h : ¬wrongPhase (.step c) s) : s.phase ≠ .idle :=
  fun hp => h (.inr ⟨⟨c, rfl⟩, hp⟩)

theorem exec_of_outOfRange {i : Instr} {s : State} (hp : ¬wrongPhase i s) (h : outOfRange i s) :
    exec i s = .next (s.refuse .range) := by
  have hidle := idle_of_not_wrongPhase hp
  cases i with
  | plen n => exact next_checked_of_not _ (hidle rfl) (by simp only [outOfRange] at h; omega)
  | pset j b => exact next_checked_of_not _ (hidle rfl) (Nat.not_lt.2 h)
  | mset j d => exact next_checked_of_not _ (hidle rfl) (Nat.not_lt.2 h)
  | mrd j => exact exec_mrd_of_none (Vector.getElem?_eq_none h)
  | rdsr r => exact exec_rdsr_of_none (statusRegister_of_ge s h)
  | txwr d => exact next_checked_of_not _ (hidle rfl) (Nat.not_lt.2 h)
  | rxrd => exact next_whenInRange_of_not _ (Nat.not_lt.2 h)
  | poll => exact next_checked_of_not _ (hidle rfl) (not_not_intro h)
  | send =>
    obtain ⟨-, hrange, -⟩ := sendStartsATransmission.2 s
    exact hrange (hidle rfl) h
  | _ => exact h.elim

theorem StepEffect.record_of_busy {c : Level} {s t : State} (h : StepEffect c s t) (hp : s.phase ≠ .idle) :
    t.cmderr = s.cmderr ∧ t.ecode = s.ecode := by
  cases h with
  | refused h => exact absurd h hp
  | _ => exact ⟨rfl, rfl⟩

/-- A command that R282 and R283 do not refuse is executed, with the error record left alone. -/
theorem exec_permitted {i : Instr} {s : State} (hp : ¬wrongPhase i s) (hr : ¬outOfRange i s) (hi : i ≠ .errclr)
    (hs : ∀ c, i ≠ .step c) : ∃ t, exec i s = .next t ∧ t.cmderr = s.cmderr ∧ t.ecode = s.ecode := by
  have hidle := idle_of_not_wrongPhase hp
  cases i with
  | nop | ckrd | ptr => exact ⟨_, rfl, rfl, rfl⟩
  | errclr => exact absurd rfl hi
  | ckclr => exact ⟨_, exec_ckclr_of_idle (hidle rfl), rfl, rfl⟩
  | ckadd d => exact ⟨_, exec_ckadd_of_idle d (hidle rfl), rfl, rfl⟩
  | plen n => exact ⟨_, next_checked_of_holds _ (hidle rfl) (by simp only [outOfRange] at hr; omega), rfl, rfl⟩
  | pset j b => exact ⟨_, next_checked_of_holds _ (hidle rfl) (Nat.not_le.1 hr), rfl, rfl⟩
  | mset j d => exact ⟨_, next_checked_of_holds _ (hidle rfl) (Nat.not_le.1 hr), rfl, rfl⟩
  | txwr d => exact ⟨_, exec_txwr_of_holds d (hidle rfl) (Nat.not_le.1 hr), rfl, rfl⟩
  | mrd j => exact ⟨_, exec_mrd_of_some (Vector.getElem?_eq_getElem (Nat.not_le.1 hr)), rfl, rfl⟩
  | rxrd => exact ⟨_, next_whenInRange_of_holds _ (BitVec.lt_def.2 (Nat.not_le.1 hr)), rfl, rfl⟩
  | rdsr r =>
    obtain ⟨v, hv, -⟩ := statusRegister_shows s (Nat.le_of_lt_succ (Nat.not_le.1 hr))
    exact ⟨_, exec_rdsr_of_some hv, rfl, rfl⟩
  | poll => exact ⟨_, exec_poll_of_idle (hidle rfl) hr, rfl, rfl⟩
  | send =>
    obtain ⟨hplen, hsize⟩ := not_or.1 hr
    exact ⟨_, exec_send_of_idle (hidle rfl) hplen (Nat.not_lt.1 hsize), rfl, rfl⟩
  | step c => exact absurd rfl (hs c)

/-- Settles O26: the check of the phase comes before that of the range (R284), and what passes both is
executed. -/
theorem commandsAreRefusedExactlyAsListed : Obligations.CommandsAreRefusedExactlyAsListed := by
  refine fun i s => ⟨exec_of_wrongPhase, exec_of_outOfRange, fun hp hr hi t h => ?_⟩
  by_cases hs : ∃ c, i = .step c
  · obtain ⟨c, rfl⟩ := hs
    exact (execStep_next_iff.1 h).record_of_busy (busy_of_not_wrongPhase hp)
  · obtain ⟨u, hu, hrec⟩ := exec_permitted hp hr hi (not_exists.1 hs)
    obtain rfl := Host.Outcome.next.inj (hu.symm.trans h)
    exact hrec

end Sys2Proof.Machine
end

section
/-! RESET (70_reset_and_hazards.md R300, R301): the state it gives has the reset values and the
invariants, and so has the state after power-on, which is its own `RESET` up to the count of `RESET`
events. -/

namespace Sys2Proof.Machine

open Sys2Proof.Claims

/-- A `RESET` of the state after power-on gives that state again, one `RESET` event counted. -/
theorem reset_eq_takeReset : State.reset = { State.reset.takeReset with resets := 0 } := rfl

theorem takeReset_buffer (s : State) (b : Buffer) : s.takeReset.buffer b = [] := by
  cases b <;> rfl

/-! ## The reset values, whatever the count of `RESET` events -/

/-- No cell is written after a `RESET` (R20). -/
theorem takeReset_cell (s : State) (n : Nat) (b : Buffer) (i : Nat) :
    State.cell { s.takeReset with resets := n } b i = Config.unspecifiedOctet n b i := by
  refine State.cell_of_unwritten ?_
  change Memory.get? (s.takeReset.buffer b) i = none
  rw [takeReset_buffer, Memory.get?_nil]

/-- Each of the nine status registers shows fields that are 0 after power-on (R44, R301). -/
theorem reset_statusRegister : ∀ r, r ≤ 8 → State.reset.statusRegister r = some 0 := by
  decide

/-- No status register shows a field that a `RESET` leaves different from power-on. -/
theorem takeReset_statusRegister (s : State) (n r : Nat) :
    State.statusRegister { s.takeReset with resets := n } r = State.reset.statusRegister r := rfl

theorem takeReset_atResetValues (s : State) (n : Nat) : atResetValues { s.takeReset with resets := n } := by
  unfold atResetValues
  refine ⟨?modes, ?host, ?engine, takeReset_cell s n, ?pins, fun r h => ?registers⟩
  case modes | host | engine => simp
  case pins => rfl
  case registers => exact exec_rdsr_of_some ((takeReset_statusRegister s n r).trans (reset_statusRegister r h))

/-- Settles O8: power-on and `RESET` differ in the count of `RESET` events alone, and the step that takes
a `RESET` looks at no command presented with it (R300). -/
theorem resetGivesTheResetValues : Obligations.ResetGivesTheResetValues := by
  obtain ⟨-, hstep, -⟩ := stepRunsThePresentedCommand
  refine ⟨takeReset_atResetValues State.reset 0, fun s e rest hi hr => ⟨_, hstep s e rest hi hr, ?_⟩⟩
  exact takeReset_atResetValues _ (s.resets + 1)

/-! ## The invariants -/

theorem reset_inv : State.reset.Inv :=
  reset_eq_takeReset ▸ { takeReset_inv (s := State.reset) (by decide) with }

/-- Settles O51: a `RESET` gives the invariant in any configuration (`takeReset_inv`), and in `IDLE` no
checksum is running. -/
theorem invariantHoldsAtReset : Obligations.InvariantHoldsAtReset :=
  ⟨reset_inv, sum_idle rfl, fun _ hw => ⟨takeReset_inv hw, sum_idle rfl⟩⟩

end Sys2Proof.Machine
end
